-- ==== Sys2Proof/Word.lean ====
section
/-! DEFINITION. The word types of the block. -/

namespace Sys2Proof

/-- A host-port word, a command word, ARG0, ARG1 and RESULT: 32 bits (00_scope.md R5). -/
abbrev Word := BitVec 32

/-- One byte of the frame buffer (10_state.md R22). -/
abbrev Byte := BitVec 8

/-- A CRC-24 remainder (10_state.md R28). -/
abbrev Rem := BitVec 24

/-- A raw CPR latitude or longitude (10_state.md R32). -/
abbrev Raw := BitVec 17

end Sys2Proof
end

