-- ==== Sys2Proof/Syntax.lean ====
section
/-! DEFINITION. The commands of ADSBDE-CMD revision 1, one constructor per row of spec/opcode_table.json. -/

namespace Sys2Proof

/-- The seven commands (30_encoding.md R94). The argument `n` of a cursor command is the WIDTH field as it
stands in the word, an unsigned 6-bit value with no scaling (R91). Values outside 1 to 32 match the row's
pattern too, and the command then raises E_ILLEGAL_WIDTH. -/
inductive Instr where
  /-- TAKE n (40_bit_cursor.md R135). -/
  | take (n : BitVec 6)
  /-- PEEK n (40_bit_cursor.md R136). -/
  | peek (n : BitVec 6)
  /-- TAG n, the expected value in ARG0 (40_bit_cursor.md R137). -/
  | tag (n : BitVec 6)
  /-- VERIFY n, the range in ARG0 and ARG1 (40_bit_cursor.md R138). -/
  | verify (n : BitVec 6)
  /-- BEGIN (40_bit_cursor.md R134). -/
  | beginFrame
  /-- CRC_COMPUTE (41_crc24.md R172). -/
  | crcCompute
  /-- CPR_RESOLVE (42_cpr.md R200). -/
  | cprResolve
  deriving DecidableEq, Repr

end Sys2Proof
end

