-- ==== Sys2Proof/WellFormed.lean ====
section
/-! DEFINITION. Which commands carry a legal width. -/

namespace Sys2Proof

/-- The legal field widths: 1 to 32 (30_encoding.md R91). -/
abbrev LegalWidth (n : BitVec 6) : Prop := 1 ≤ n.toNat ∧ n.toNat ≤ 32

/-- A command is well formed when its width is one that R91 calls legal. An ill-formed one is still a
command of its row: it raises E_ILLEGAL_WIDTH (60_exceptions.md R248). -/
def Instr.wellFormed (i : Instr) : Bool :=
  match i with
  | .take n => decide (LegalWidth n)
  | .peek n => decide (LegalWidth n)
  | .tag n => decide (LegalWidth n)
  | .verify n => decide (LegalWidth n)
  | .beginFrame => true
  | .crcCompute => true
  | .cprResolve => true

end Sys2Proof
end

