-- ==== Sys2Proof/Decode.lean ====
section
/-! DEFINITION. The command decoder and its inverse. -/

namespace Sys2Proof

/-- Why a word is no command: the three checks of 30_encoding.md R96 that raise E_ILLEGAL_COMMAND, in the
order of 60_exceptions.md R251. -/
inductive DecodeError where
  /-- RSVD ≠ 0. -/
  | reservedBits
  /-- An OPCODE that no row of R94 has. -/
  | unassignedOpcode
  /-- WIDTH ≠ 0 on BEGIN, CRC_COMPUTE or CPR_RESOLVE. -/
  | widthNotZero
  deriving DecidableEq, Repr

/-- OPCODE = w[7:0] (30_encoding.md R90). -/
def opcodeOf (w : Word) : Byte := w.extractLsb' 0 8

/-- WIDTH = w[13:8] (30_encoding.md R90, R91). -/
def widthOf (w : Word) : BitVec 6 := w.extractLsb' 8 6

/-- RSVD = w[31:14] (30_encoding.md R90). -/
def rsvdOf (w : Word) : BitVec 18 := w.extractLsb' 14 18

/-- A command that takes no width: its WIDTH field must be 0 (30_encoding.md R90, R96). -/
def noWidth (w : Word) (i : Instr) : Except DecodeError Instr :=
  if widthOf w = 0 then .ok i else .error .widthNotZero

/-- The command decoder, total on every 32-bit word (30_encoding.md R96). It makes the checks that raise
E_ILLEGAL_COMMAND, in the order written there. The last check of R96, the width range of a cursor command,
stands at the head of that command's meaning (`Sys2Proof.Machine.fetchField`), so that a word which matches a
row of the opcode table decodes to that row's command (log 7). -/
def decode (w : Word) : Except DecodeError Instr :=
  if rsvdOf w ≠ 0 then .error .reservedBits
  else if opcodeOf w = 0x01 then .ok (.take (widthOf w))
  else if opcodeOf w = 0x02 then .ok (.peek (widthOf w))
  else if opcodeOf w = 0x03 then .ok (.tag (widthOf w))
  else if opcodeOf w = 0x04 then .ok (.verify (widthOf w))
  else if opcodeOf w = 0x08 then noWidth w .beginFrame
  else if opcodeOf w = 0x10 then noWidth w .crcCompute
  else if opcodeOf w = 0x20 then noWidth w .cprResolve
  else .error .unassignedOpcode

/-- A word with the given WIDTH and OPCODE and RSVD = 0 (30_encoding.md R90). -/
def commandWord (n : BitVec 6) (op : Byte) : Word := (0#18 ++ n) ++ op

/-- The word of a command (30_encoding.md R94). -/
def encode (i : Instr) : Word :=
  match i with
  | .take n => commandWord n 0x01
  | .peek n => commandWord n 0x02
  | .tag n => commandWord n 0x03
  | .verify n => commandWord n 0x04
  | .beginFrame => commandWord 0 0x08
  | .crcCompute => commandWord 0 0x10
  | .cprResolve => commandWord 0 0x20

/-- What the decoder reads from an instruction of the opcode table given as a number: a command is one
32-bit word, so bit 0 of the number is bit 0 of the word. -/
def decodeTableWord (nbits w : Nat) : Option Instr :=
  match decode (BitVec.ofNat 32 (w % 2 ^ nbits)) with
  | .ok i => some i
  | .error _ => none

end Sys2Proof
end

