-- ==== Sys2Proof/Config.lean ====
section
/-! DEFINITION. What an implementation fixes, and the values the spec leaves unspecified. -/

namespace Sys2Proof.Config

/-- The default of the parameter FRAME_MAX (00_scope.md R5). -/
def frameMaxDefault : Nat := 32

/-- The legal sizes of the frame buffer (00_scope.md R5). -/
abbrev LegalFrameMax (n : Nat) : Prop := 14 ≤ n ∧ n ≤ 128

/-- The words the hardware returns where the spec says that a read is unspecified (10_state.md R38;
93_implementation_defined.md Part 1, "any value"). It has no body, so a statement holds whatever they are.
The counter `State.draws` selects the word (log 6). -/
opaque unspecifiedWord : Nat → Word

end Sys2Proof.Config
end

