-- ==== Sys2Proof/Machine/State.lean ====
section
/-! DEFINITION. The state of the block, its error codes, its faults and its reset state. -/

namespace Sys2Proof.Machine

/-- The codes of STATUS.ERR (60_exceptions.md R240). Codes 8 to 15 are never written, so a type with eight
constructors holds them (93_implementation_defined.md Part 1). -/
inductive ErrorCode where
  /-- 0, E_NONE. -/
  | none
  /-- 1, E_TRUNCATED. -/
  | truncated
  /-- 2, E_UNEXPECTED_VALUE. -/
  | unexpectedValue
  /-- 3, E_CONSTRAINT_VIOLATION. -/
  | constraintViolation
  /-- 4, E_CRC_INPUT_TOO_SHORT. -/
  | crcInputTooShort
  /-- 5, E_ILLEGAL_COMMAND. -/
  | illegalCommand
  /-- 6, E_ILLEGAL_WIDTH. -/
  | illegalWidth
  /-- 7, E_BAD_LENGTH. -/
  | badLength
  deriving DecidableEq, Repr

/-- The fields of STATUS (10_state.md R29). No host access writes STATUS, so it is no bit vector here; its
32-bit reading is `Status.toWord`. -/
structure Status where
  /-- ERR: the error code of the last command. -/
  err : ErrorCode
  /-- ANYERR: sticky, set by any command that raises, cleared by BEGIN and reset. -/
  anyErr : Bool
  /-- CRCZ: the last successful CRC_COMPUTE gave remainder 0. -/
  crcz : Bool
  /-- CPR_VALID: the last CPR_RESOLVE produced a position. -/
  cprValid : Bool
  deriving DecidableEq, Repr

/-- The seven CPR output registers, which are absent or hold a value together (10_state.md R35 to R38). -/
structure CprOutputs where
  /-- CPR_LAT_NUM, two's complement (R35). -/
  latNum : Word
  /-- CPR_LAT_ZONES (R35). -/
  latZones : Byte
  /-- CPR_LON_NUM, two's complement (R36). -/
  lonNum : Word
  /-- CPR_LON_ZONES (R36). -/
  lonZones : Byte
  /-- CPR_J, two's complement (R37). -/
  j : Word
  /-- CPR_M, two's complement (R37). -/
  m : Word
  /-- CPR_NL (R37). -/
  nl : Byte
  deriving DecidableEq, Repr

/-- The written bytes of the frame buffer, in one canonical form: byte indices strictly rising. An index that is
not listed has not been written since reset and holds no value (10_state.md R22). -/
abbrev Memory := List Host.Cell

/-- What the outside world does to the block, one event a step (20_memory.md R60; 70_reset_and_hazards.md R271). -/
inductive Event where
  /-- The platform asserts the block's reset (R271). -/
  | reset
  /-- HostRead at a byte offset (R60). -/
  | read (offset : Nat)
  /-- HostWrite of a word at a byte offset (R60). -/
  | write (offset : Nat) (w : Word)
  deriving DecidableEq, Repr

/-- The state: the registers of 10_state.md R20 under their own names, the instance's parameter, and the three
fields of the model (`events`, `reads`, `draws`). CAPS, CMD and the CRC table store nothing that changes (R30, R31,
R40) and are no fields. -/
structure State where
  /-- FB (R22): the bytes written since reset. -/
  fb : Memory
  /-- FLEN (R23). -/
  flen : Byte
  /-- CURSOR.OFF (R24, R6). -/
  cursor : BitVec 11
  /-- ARG0 (R25). -/
  arg0 : Word
  /-- ARG1 (R26). -/
  arg1 : Word
  /-- RESULT (R27). -/
  result : Word
  /-- CRC_REM (R28). -/
  crcRem : Rem
  /-- STATUS (R29). -/
  status : Status
  /-- CPR_A_LAT (R32). -/
  cprALat : Raw
  /-- CPR_A_LON (R32). -/
  cprALon : Raw
  /-- CPR_B_LAT (R33). -/
  cprBLat : Raw
  /-- CPR_B_LON (R33). -/
  cprBLon : Raw
  /-- CPR_PAR (R34). -/
  cprPar : BitVec 2
  /-- The CPR output registers; none is the spec's "absent" (R38). -/
  cprOut : Option CprOutputs
  /-- FRAME_MAX (00_scope.md R5): the instance's parameter. No step changes it (log 1). -/
  frameMax : Nat
  /-- The host accesses and resets to come, oldest first (log 3). -/
  events : List Event
  /-- The values that host reads have returned, oldest first (log 3). -/
  reads : List Word
  /-- How many host reads have been made: selects the next unspecified word (log 6). -/
  draws : Nat
  deriving DecidableEq, Repr

/-- The ways a step of the model stops. The block itself never stops (60_exceptions.md R259). -/
inductive Fault where
  /-- A cursor command or CRC_COMPUTE reads byte `index` of FB, which the host has not written since reset. Raised by
  TAKE, PEEK, TAG, VERIFY and CRC_COMPUTE. Safe: 40_bit_cursor.md R141 asks a model to fault here, naming the byte,
  where hardware returns some value (log 5). -/
  | unwrittenByte (index : Nat)
  deriving DecidableEq, Repr

/-- The ways a step has no meaning. -/
inductive Refusal where
  /-- A command the model gives no meaning. Raised by no arm: every command has its meaning. Safe. -/
  | notModelled (mnemonic : String)
  deriving DecidableEq, Repr

/-- What a step or a command answers. -/
abbrev Outcome := Host.Outcome State Fault Refusal

/-- The state right after reset (70_reset_and_hazards.md R270), with the default FRAME_MAX (00_scope.md R5) and
with no event to come, no value read and no word drawn (log 3, log 6). -/
def State.reset : State where
  fb := []
  flen := 0
  cursor := 0
  arg0 := 0
  arg1 := 0
  result := 0
  crcRem := 0
  status := { err := .none, anyErr := false, crcz := false, cprValid := false }
  cprALat := 0
  cprALon := 0
  cprBLat := 0
  cprBLon := 0
  cprPar := 0
  cprOut := none
  frameMax := Config.frameMaxDefault
  events := []
  reads := []
  draws := 0

end Sys2Proof.Machine
end

