-- ==== Sys2Proof/Machine/Flags.lean ====
section
/-! DEFINITION. STATUS: its 32-bit reading and every way a command changes it. -/

namespace Sys2Proof.Machine

/-- The number of an error code (60_exceptions.md R240). -/
def ErrorCode.code (c : ErrorCode) : BitVec 4 :=
  match c with
  | .none => 0
  | .truncated => 1
  | .unexpectedValue => 2
  | .constraintViolation => 3
  | .crcInputTooShort => 4
  | .illegalCommand => 5
  | .illegalWidth => 6
  | .badLength => 7

/-- STATUS as the host reads it: ERR in [3:0], ANYERR, CRCZ and CPR_VALID in bits 4, 5 and 6, and 0 above
(10_state.md R29). -/
def Status.toWord (st : Status) : Word :=
  ((((0#25 ++ BitVec.ofBool st.cprValid) ++ BitVec.ofBool st.crcz) ++ BitVec.ofBool st.anyErr) ++ st.err.code)

/-- STATUS after `raise Error(c)`: ERR ← c, ANYERR ← 1 (60_exceptions.md R241). -/
def Status.raised (st : Status) (c : ErrorCode) : Status := { st with err := c, anyErr := true }

/-- STATUS after a command that succeeds: ERR ← E_NONE; ANYERR stays (60_exceptions.md R240; 10_state.md R29). -/
def Status.succeeded (st : Status) : Status := { st with err := .none }

/-- STATUS after BEGIN: ANYERR ← 0, ERR ← E_NONE (40_bit_cursor.md R134). -/
def Status.begun (st : Status) : Status := { st with err := .none, anyErr := false }

/-- STATUS.CRCZ ← (rem = 0) (41_crc24.md R173). -/
def Status.withCrcz (st : Status) (rem : Rem) : Status := { st with crcz := decide (rem = 0) }

/-- STATUS.CPR_VALID ← v (42_cpr.md R200, R201). -/
def Status.withCprValid (st : Status) (v : Bool) : Status := { st with cprValid := v }

end Sys2Proof.Machine
end

