-- ==== Sys2Proof/Machine/Ops.lean ====
section
/-! DEFINITION. The operations on the frame buffer and the registers, and the effect of an error. -/

namespace Sys2Proof.Machine

/-- The byte at index `i` of FB, or none where nothing has been written since reset (10_state.md R22, log 5). -/
def Memory.read (m : Memory) (i : Nat) : Option Byte :=
  match m with
  | [] => none
  | (a, b) :: rest => if a = i then some b else Memory.read rest i

/-- Writes the byte at index `i`, keeping the indices strictly rising. -/
def Memory.write (m : Memory) (i : Nat) (v : Byte) : Memory :=
  match m with
  | [] => [(i, v)]
  | (a, b) :: rest =>
    if i < a then (i, v) :: (a, b) :: rest
    else if i = a then (i, v) :: rest
    else (a, b) :: Memory.write rest i v

/-- The canonical form: byte indices strictly rising. (An unlisted index reads as no value, so no entry can
equal what it reads as.) -/
abbrev Memory.wf (m : Memory) : Prop := m.Pairwise (fun a b => a.1 < b.1)

/-- FB[i], or the index of the byte if it is unwritten. -/
def frameByte (m : Memory) (i : Nat) : Except Nat Byte :=
  match m.read i with
  | some b => .ok b
  | none => .error i

/-- FrameBit(p) = (FB[p div 8] >> (7 - (p mod 8))) & 1: stream positions run MSB-first (00_scope.md R7, R9). -/
def frameBit (m : Memory) (p : Nat) : Except Nat Bool :=
  match frameByte m (p / 8) with
  | .ok b => .ok (b.getLsbD (7 - p % 8))
  | .error i => .error i

/-- Bits(off, n): the n stream bits from position `off`, the first one most significant (00_scope.md R9;
40_bit_cursor.md R130). An unwritten byte among them answers with its index, the lowest first. -/
def bits (m : Memory) (off n : Nat) : Except Nat Nat :=
  match n with
  | 0 => .ok 0
  | k + 1 =>
    match bits m off k with
    | .error i => .error i
    | .ok v =>
      match frameBit m (off + k) with
      | .error i => .error i
      | .ok b => .ok (2 * v + b.toNat)

/-- The bytes FB[start] .. FB[start + n - 1] in order. An unwritten byte among them answers with its index, the
lowest first. -/
def frameBytes (m : Memory) (start n : Nat) : Except Nat (List Byte) :=
  match n with
  | 0 => .ok []
  | k + 1 =>
    match frameByte m start with
    | .error i => .error i
    | .ok b =>
      match frameBytes m (start + 1) k with
      | .error i => .error i
      | .ok bs => .ok (b :: bs)

/-- The big-endian number of a list of bytes, the first one most significant (MemRead, 00_scope.md R9). -/
def bigEndian (bs : List Byte) : Nat := bs.foldl (fun acc b => 256 * acc + b.toNat) 0

/-- RESULT ← zext_32(v). The field has at most 32 bits, so nothing is lost (40_bit_cursor.md R130). -/
def State.setResult (s : State) (v : Nat) : State := { s with result := BitVec.ofNat 32 v }

/-- CURSOR.OFF ← off. An offset that passed the bounds check fits 11 bits (00_scope.md R6). -/
def State.setCursor (s : State) (off : Nat) : State := { s with cursor := BitVec.ofNat 11 off }

/-- STATUS.ERR ← E_NONE. -/
def State.succeed (s : State) : State := { s with status := s.status.succeeded }

/-- The state after an error: ERR and ANYERR, and nothing else (60_exceptions.md R241). -/
def State.fail (s : State) (c : ErrorCode) : State := { s with status := s.status.raised c }

/-- The state after BEGIN's writes to STATUS (40_bit_cursor.md R134). -/
def State.clearErrors (s : State) : State := { s with status := s.status.begun }

/-- CRC_REM ← rem and STATUS.CRCZ ← (rem = 0) (41_crc24.md R173). -/
def State.setRemainder (s : State) (rem : Rem) : State :=
  { s with crcRem := rem, status := s.status.withCrcz rem }

/-- The CPR output registers and STATUS.CPR_VALID together: a position with CPR_VALID = 1, or absent with
CPR_VALID = 0 (10_state.md R38; 42_cpr.md R200, R201). -/
def State.setPosition (s : State) (o : Option CprOutputs) : State :=
  { s with cprOut := o, status := s.status.withCprValid o.isSome }

/-- The state with these events still to come (log 3). -/
def State.setEvents (s : State) (es : List Event) : State := { s with events := es }

/-- A host read has returned `v`; the next host read sees the next unspecified word (log 3, log 6). -/
def State.logRead (s : State) (v : Word) : State := { s with reads := s.reads ++ [v], draws := s.draws + 1 }

/-- `raise Error(code)`: what stands here for taking an exception. The block has no trap: the command ends, STATUS
records the code, nothing is saved, no control is transferred, and the next access runs normally
(60_exceptions.md R241, R253). There is no return from it either (R253): the host issues its next command. -/
def raise (c : ErrorCode) (s : State) : Outcome := .next (s.fail c)

/-- The reset event (70_reset_and_hazards.md R270, R271): every register as in R270, FB unwritten. The parameter
stays, and so do the events still to come, the values read so far and the draw counter (log 9). -/
def resetBlock (s : State) : State :=
  { State.reset with frameMax := s.frameMax, events := s.events, reads := s.reads, draws := s.draws }

end Sys2Proof.Machine
end

