-- ==== Sys2Proof/Machine/Operands.lean ====
section
/-! DEFINITION. Where commands take their operands from: the n-bit field at CURSOR, the frame's bytes, the two CPR
slots. -/

namespace Sys2Proof.Machine

/-- What fetching an operand from the frame gives. -/
inductive Operand (α : Type) where
  /-- A check fails: the command raises this code. -/
  | raises (c : ErrorCode)
  /-- The operand touches FB byte `index`, unwritten since reset (40_bit_cursor.md R141). -/
  | unwritten (index : Nat)
  /-- The operand. -/
  | value (v : α)
  deriving DecidableEq, Repr

/-- An operand from a read of the frame. -/
def Operand.ofRead {α : Type} (r : Except Nat α) : Operand α :=
  match r with
  | .ok v => .value v
  | .error i => .unwritten i

/-- The field of a cursor command, after the checks in the order of 60_exceptions.md R251: the width (30_encoding.md
R91, R96), FLEN against FRAME_MAX (40_bit_cursor.md R131), the bits that remain (R133). -/
def fetchField (n : BitVec 6) (s : State) : Operand Nat :=
  if n.toNat < 1 ∨ 32 < n.toNat then .raises .illegalWidth
  else if s.frameMax < s.flen.toNat then .raises .badLength
  else if 8 * s.flen.toNat < s.cursor.toNat + n.toNat then .raises .truncated
  else Operand.ofRead (bits s.fb s.cursor.toNat n.toNat)

/-- The bytes of CRC_COMPUTE, after its checks (41_crc24.md R173, R174). -/
def fetchFrame (s : State) : Operand (List Byte) :=
  if s.frameMax < s.flen.toNat then .raises .badLength
  else if s.flen.toNat < 3 then .raises .crcInputTooShort
  else Operand.ofRead (frameBytes s.fb 0 s.flen.toNat)

/-- Runs the rest of a command on its operand: an error is raised, an unwritten byte is the model's fault. -/
def withOperand {α : Type} (o : Operand α) (s : State) (k : α → Outcome) : Outcome :=
  match o with
  | .raises c => raise c s
  | .unwritten i => .fault (.unwrittenByte i)
  | .value v => k v

/-- A CPR parity (10_state.md R34). -/
inductive Parity where
  | even
  | odd
  deriving DecidableEq, Repr

/-- 0 = Even, 1 = Odd (10_state.md R34). -/
def Parity.ofBit (b : Bool) : Parity := if b then .odd else .even

/-- One CPR frame: the contents of a slot (10_state.md R32, R33). -/
structure CprFrame where
  lat : Nat
  lon : Nat
  parity : Parity
  deriving DecidableEq, Repr

/-- Slot A, the older frame: its parity is CPR_PAR[0] (10_state.md R32, R34). -/
def slotA (s : State) : CprFrame := ⟨s.cprALat.toNat, s.cprALon.toNat, .ofBit (s.cprPar.getLsbD 0)⟩

/-- Slot B, the latest frame: its parity is CPR_PAR[1] (10_state.md R33, R34). -/
def slotB (s : State) : CprFrame := ⟨s.cprBLat.toNat, s.cprBLon.toNat, .ofBit (s.cprPar.getLsbD 1)⟩

end Sys2Proof.Machine
end

