-- ==== Sys2Proof/Machine/Cpr.lean ====
section
/-! DEFINITION. The CPR geodetic resolver: CPR_RESOLVE. -/

namespace Sys2Proof.Machine

/-- NL_TABLE (42_cpr.md R214): the rows n = 59 down to 3 with T[n] · 10^8. The row n = 2 (87, inclusive) is the last
comparison of `nlZones` (R209). This is the parameter's one legal value (00_scope.md R5, log 2). -/
def nlTable : List (Nat × Nat) :=
  [(59, 1047047130), (58, 1482817437), (57, 1818626357), (56, 2102939493), (55, 2354504487), (54, 2582924707),
    (53, 2793898710), (52, 2991135686), (51, 3177209708), (50, 3353993436)]
  ++ [(49, 3522899598), (48, 3685025108), (47, 3841241892), (46, 3992256684), (45, 4138651832), (44, 4280914012),
    (43, 4419454951), (42, 4554626723), (41, 4686733252), (40, 4816039128)]
  ++ [(39, 4942776439), (38, 5067150166), (37, 5189342469), (36, 5309516153), (35, 5427817472), (34, 5544378444),
    (33, 5659318756), (32, 5772747354), (31, 5884763776), (30, 5995459277)]
  ++ [(29, 6104917774), (28, 6213216659), (27, 6320427479), (26, 6426616523), (25, 6531845310), (24, 6636171008),
    (23, 6739646774), (22, 6842322022), (21, 6944242631), (20, 7045451075)]
  ++ [(19, 7145986473), (18, 7245884545), (17, 7345177442), (16, 7443893416), (15, 7542056257), (14, 7639684391),
    (13, 7736789461), (12, 7833374083), (11, 7929428225), (10, 8024923213)]
  ++ [(9, 8119801349), (8, 8213956981), (7, 8307199445), (6, 8399173563), (5, 8489166191), (4, 8575541621),
    (3, 8653536998)]

/-- NL at the latitude 360·N/(Z·131072), from |N| and Z: the first row with a < T[n]; then 2 up to 87 inclusive, 1
above (42_cpr.md R209). Both comparisons are exact, multiplied out. -/
def nlZones (table : List (Nat × Nat)) (absN z : Nat) : Nat :=
  match table with
  | [] => if 360 * absN ≤ 87 * (z * 131072) then 2 else 1
  | (n, t) :: rest => if 360 * absN * 100000000 < t * (z * 131072) then n else nlZones rest absN z

/-- J (42_cpr.md R204). -/
def latIndex (eLat oLat : Int) : Int := (59 * eLat - 60 * oLat + 65536) / 131072

/-- The candidate of a frame whose circle has `z` zones, in units of 2^-17 zone, before the wraparound (42_cpr.md R205,
R206). `%` with a positive divisor is the floored modulo (00_scope.md R8). -/
def latCandidate (z j raw : Int) : Int := j % z * 131072 + raw

/-- The latitude wraparound: down by 360° if at or above 270° (42_cpr.md R207). -/
def wrapLat (z n : Int) : Int := if 3 * z * 131072 ≤ 4 * n then n - z * 131072 else n

/-- M (42_cpr.md R211). -/
def lonIndex (eLon oLon nl : Int) : Int := (eLon * (nl - 1) - oLon * nl + 65536) / 131072

/-- ni (42_cpr.md R212). -/
def zoneCount (p : Parity) (nl : Nat) : Nat :=
  match p with
  | .even => max nl 1
  | .odd => max (nl - 1) 1

/-- The longitude before the wraparound, in units of 2^-17 zone (42_cpr.md R213). -/
def lonCandidate (ni m raw : Int) : Int := m % ni * 131072 + raw

/-- The longitude wraparound: down by 360° if at or above 180° (42_cpr.md R213). -/
def wrapLon (ni n : Int) : Int := if ni * 131072 ≤ 2 * n then n - ni * 131072 else n

/-- A resolved position as exact integers (42_cpr.md R215). -/
structure Position where
  j : Int
  latNum : Int
  latZones : Nat
  nl : Nat
  m : Int
  lonNum : Int
  lonZones : Nat
  deriving DecidableEq, Repr

/-- The zone count that scales a latitude (42_cpr.md R205, R206). -/
def latZonesOf (p : Parity) : Nat :=
  match p with
  | .even => 60
  | .odd => 59

/-- The position of an even frame `e` and an odd frame `o`, of which `latest` is the second of the ordered pair
(42_cpr.md R202 to R213, R215). -/
def resolvePair (e o latest : CprFrame) : Position :=
  let j := latIndex e.lat o.lat
  let z := latZonesOf latest.parity
  let n := wrapLat z (latCandidate z j latest.lat)
  let nl := nlZones nlTable n.natAbs z
  let m := lonIndex e.lon o.lon nl
  let ni := zoneCount latest.parity nl
  { j := j, latNum := n, latZones := z, nl := nl, m := m
    lonNum := wrapLon ni (lonCandidate ni m latest.lon), lonZones := ni }

/-- The resolver on the ordered pair (older, latest): absent for equal parities (42_cpr.md R201, R202). -/
def resolve (a b : CprFrame) : Option Position :=
  match a.parity, b.parity with
  | .even, .odd => some (resolvePair a b b)
  | .odd, .even => some (resolvePair b a b)
  | .even, .even => none
  | .odd, .odd => none

/-- The output registers of a position: sext_32 of the signed values (42_cpr.md R215). -/
def Position.outputs (p : Position) : CprOutputs where
  latNum := BitVec.ofInt 32 p.latNum
  latZones := BitVec.ofNat 8 p.latZones
  lonNum := BitVec.ofInt 32 p.lonNum
  lonZones := BitVec.ofNat 8 p.lonZones
  j := BitVec.ofInt 32 p.j
  m := BitVec.ofInt 32 p.m
  nl := BitVec.ofNat 8 p.nl

/-- CPR_RESOLVE (42_cpr.md R200, R201, R215). -/
def execCprResolve (s : State) : Outcome :=
  .next (s.setPosition ((resolve (slotA s) (slotB s)).map Position.outputs)).succeed

end Sys2Proof.Machine
end

