-- ==== Sys2Proof/Machine/Crc.lean ====
section
/-! DEFINITION. The CRC-24 engine: CRC_COMPUTE. -/

namespace Sys2Proof.Machine

/-- The generator without its x^24 term (41_crc24.md R170). -/
def crcPoly : Rem := 0xFFF409

/-- One round of the table's construction: multiply by x, reduce (41_crc24.md R171). -/
def crcShift (c : Rem) : Rem := if c.getLsbD 23 then (c <<< 1) ^^^ crcPoly else c <<< 1

/-- `k` rounds. -/
def crcShifts (k : Nat) (c : Rem) : Rem :=
  match k with
  | 0 => c
  | k + 1 => crcShifts k (crcShift c)

/-- CRC_TABLE[i]: eight rounds from i << 16 (41_crc24.md R171). The table is a constant ROM (10_state.md R40). -/
def crcTable (i : Byte) : Rem := crcShifts 8 (i.setWidth 24 <<< 16)

/-- One step of the table loop: idx = b ^ rem[23:16]; rem = trunc_24(rem << 8) ^ CRC_TABLE[idx] (41_crc24.md
R173). -/
def crcStep (rem : Rem) (b : Byte) : Rem := (rem <<< 8) ^^^ crcTable (b ^^^ rem.extractLsb' 16 8)

/-- The remainder of the data bytes, from the initial remainder 0 (41_crc24.md R173). -/
def crcData (bytes : List Byte) : Rem := bytes.foldl crcStep 0

/-- compute(bytes) for at least three bytes: the table loop over all but the last three, then those three
XOR-ed in, big-endian (41_crc24.md R173). -/
def crc24 (bytes : List Byte) : Rem :=
  crcData (bytes.take (bytes.length - 3)) ^^^ BitVec.ofNat 24 (bigEndian (bytes.drop (bytes.length - 3)))

/-- CRC_COMPUTE (41_crc24.md R172, R173). -/
def execCrcCompute (s : State) : Outcome :=
  withOperand (fetchFrame s) s fun bytes => .next (s.setRemainder (crc24 bytes)).succeed

end Sys2Proof.Machine
end

