-- ==== Sys2Proof/Machine/Cursor.lean ====
section
/-! DEFINITION. The bit cursor: BEGIN, TAKE, PEEK, TAG, VERIFY. -/

namespace Sys2Proof.Machine

/-- What TAKE, TAG and VERIFY write on success: RESULT, CURSOR and ERR (40_bit_cursor.md R132, R135). -/
def consume (n : BitVec 6) (v : Nat) (s : State) : Outcome :=
  .next ((s.setResult v).setCursor (s.cursor.toNat + n.toNat)).succeed

/-- BEGIN (40_bit_cursor.md R134). -/
def execBegin (s : State) : Outcome := .next (s.setCursor 0).clearErrors

/-- TAKE n (40_bit_cursor.md R135). -/
def execTake (n : BitVec 6) (s : State) : Outcome := withOperand (fetchField n s) s fun v => consume n v s

/-- PEEK n: as TAKE, but CURSOR is not written (40_bit_cursor.md R136). -/
def execPeek (n : BitVec 6) (s : State) : Outcome :=
  withOperand (fetchField n s) s fun v => .next (s.setResult v).succeed

/-- TAG n: the field must equal all 32 bits of ARG0 (40_bit_cursor.md R137; 30_encoding.md R92). -/
def execTag (n : BitVec 6) (s : State) : Outcome :=
  withOperand (fetchField n s) s fun v =>
    if v = s.arg0.toNat then consume n v s else raise .unexpectedValue s

/-- VERIFY n: the field must lie in the inclusive unsigned range [ARG0, ARG1] (40_bit_cursor.md R138;
30_encoding.md R93). -/
def execVerify (n : BitVec 6) (s : State) : Outcome :=
  withOperand (fetchField n s) s fun v =>
    if s.arg0.toNat ≤ v ∧ v ≤ s.arg1.toNat then consume n v s else raise .constraintViolation s

end Sys2Proof.Machine
end

