-- ==== Sys2Proof/Machine/Dispatch.lean ====
section
/-! DEFINITION. The meaning of every command, one arm each. -/

namespace Sys2Proof.Machine

/-- The meaning of a command (30_encoding.md R94, R96). -/
def exec (i : Instr) (s : State) : Host.Outcome State Fault Refusal :=
  match i with
  | .take n => Sys2Proof.Machine.execTake n s
  | .peek n => Sys2Proof.Machine.execPeek n s
  | .tag n => Sys2Proof.Machine.execTag n s
  | .verify n => Sys2Proof.Machine.execVerify n s
  | .beginFrame => Sys2Proof.Machine.execBegin s
  | .crcCompute => Sys2Proof.Machine.execCrcCompute s
  | .cprResolve => Sys2Proof.Machine.execCprResolve s

end Sys2Proof.Machine
end

