-- ==== Sys2Proof/Machine/Port.lean ====
section
/-! DEFINITION. The host port: the register map, host reads and writes, and the write of a command. -/

namespace Sys2Proof.Machine

/-- What an offset of the address space names (20_memory.md R62). -/
inductive PortReg where
  | cmd
  | status
  | caps
  | flen
  | cursor
  | arg0
  | arg1
  | result
  | crcRem
  | cprALat
  | cprALon
  | cprBLat
  | cprBLon
  | cprPar
  | cprLatNum
  | cprLatZones
  | cprLonNum
  | cprLonZones
  | cprJ
  | cprM
  | cprNl
  /-- Word `k` of the FB window. -/
  | fbWord (k : Nat)
  /-- Every other offset (R63). -/
  | reserved
  deriving DecidableEq, Repr

/-- The register map below the FB window (20_memory.md R62). -/
def portMap : List (Nat × PortReg) :=
  [(0x000, .cmd), (0x004, .status), (0x008, .caps), (0x00C, .flen), (0x010, .cursor), (0x014, .arg0), (0x018, .arg1),
    (0x01C, .result), (0x020, .crcRem)]
  ++ [(0x040, .cprALat), (0x044, .cprALon), (0x048, .cprBLat), (0x04C, .cprBLon), (0x050, .cprPar)]
  ++ [(0x060, .cprLatNum), (0x064, .cprLatZones), (0x068, .cprLonNum), (0x06C, .cprLonZones), (0x070, .cprJ),
    (0x074, .cprM), (0x078, .cprNl)]

/-- The word an access acts on: offset bits [8:0] are decoded (20_memory.md R61), bits [1:0] ignored (R66). The
host's offset may have any width (log 8). -/
def wordOffset (a : Nat) : Nat := a % 512 / 4 * 4

/-- The row of the map with this word offset, if there is one. -/
def mapLookup (m : List (Nat × PortReg)) (o : Nat) : Option PortReg :=
  match m with
  | [] => none
  | (a, r) :: rest => if a = o then some r else mapLookup rest o

/-- What a byte offset names (20_memory.md R61 to R64, R66). -/
def portReg (a : Nat) : PortReg :=
  match mapLookup portMap (wordOffset a) with
  | some r => r
  | none =>
    if 0x100 ≤ wordOffset a ∧ wordOffset a < 0x180 then .fbWord ((wordOffset a - 0x100) / 4) else .reserved

/-- CAPS: FRAME_MAX in [7:0], the command-set revision 1 in [15:8], 0 above (10_state.md R30). -/
def capsWord (frameMax : Nat) : Word := (0#16 ++ 1#8) ++ BitVec.ofNat 8 frameMax

/-- The byte of word `k` at place `j` that a host read of the FB window returns: B(4k+j), where a byte beyond FRAME_MAX
is 0 and an unwritten one is the draw's (20_memory.md R64; 93_implementation_defined.md Part 1; log 6). -/
def windowByte (draw : Word) (s : State) (k j : Nat) : Byte :=
  if 4 * k + j < s.frameMax then
    match s.fb.read (4 * k + j) with
    | some b => b
    | none => draw.extractLsb' (24 - 8 * j) 8
  else 0

/-- Word `k` of the FB window, packed big-endian (20_memory.md R64). -/
def windowWord (draw : Word) (s : State) (k : Nat) : Word :=
  ((windowByte draw s k 0 ++ windowByte draw s k 1) ++ windowByte draw s k 2) ++ windowByte draw s k 3

/-- A 32-bit CPR output register: its value, or the draw while it is absent (10_state.md R38). -/
def outputWord (draw : Word) (s : State) (f : CprOutputs → Word) : Word :=
  match s.cprOut with
  | some o => f o
  | none => draw

/-- An 8-bit CPR output register: its value, or eight bits of the draw while it is absent; bits [31:8] read 0
(10_state.md R35 to R38, log 6). -/
def outputByte (draw : Word) (s : State) (f : CprOutputs → Byte) : Word :=
  match s.cprOut with
  | some o => (f o).setWidth 32
  | none => (draw.extractLsb' 0 8).setWidth 32

/-- The word a host read of `r` returns (10_state.md R22 to R38; 20_memory.md R63, R64). -/
def readReg (draw : Word) (s : State) (r : PortReg) : Word :=
  match r with
  | .cmd => 0
  | .status => s.status.toWord
  | .caps => capsWord s.frameMax
  | .flen => s.flen.setWidth 32
  | .cursor => s.cursor.setWidth 32
  | .arg0 => s.arg0
  | .arg1 => s.arg1
  | .result => s.result
  | .crcRem => s.crcRem.setWidth 32
  | .cprALat => s.cprALat.setWidth 32
  | .cprALon => s.cprALon.setWidth 32
  | .cprBLat => s.cprBLat.setWidth 32
  | .cprBLon => s.cprBLon.setWidth 32
  | .cprPar => s.cprPar.setWidth 32
  | .cprLatNum => outputWord draw s CprOutputs.latNum
  | .cprLatZones => outputByte draw s CprOutputs.latZones
  | .cprLonNum => outputWord draw s CprOutputs.lonNum
  | .cprLonZones => outputByte draw s CprOutputs.lonZones
  | .cprJ => outputWord draw s CprOutputs.j
  | .cprM => outputWord draw s CprOutputs.m
  | .cprNl => outputByte draw s CprOutputs.nl
  | .fbWord k => windowWord draw s k
  | .reserved => 0

/-- FB[4k+j] ← w[31-8j : 24-8j] if that byte exists (20_memory.md R64). -/
def writeWindowByte (m : Memory) (frameMax k j : Nat) (w : Word) : Memory :=
  if 4 * k + j < frameMax then m.write (4 * k + j) (w.extractLsb' (24 - 8 * j) 8) else m

/-- The four bytes of word `k` of the FB window (20_memory.md R64). -/
def writeWindow (m : Memory) (frameMax k : Nat) (w : Word) : Memory :=
  [0, 1, 2, 3].foldl (fun acc j => writeWindowByte acc frameMax k j w) m

/-- What a host write of `w` to `r` stores; at a read-only register and a reserved offset it is ignored
(10_state.md R22 to R38; 20_memory.md R63, R64). A write of CMD stores nothing (10_state.md R31); `hostWrite` runs
its command. -/
def writeReg (w : Word) (s : State) (r : PortReg) : State :=
  match r with
  | .cmd => s
  | .status => s
  | .caps => s
  | .flen => { s with flen := w.setWidth 8 }
  | .cursor => s
  | .arg0 => { s with arg0 := w }
  | .arg1 => { s with arg1 := w }
  | .result => s
  | .crcRem => s
  | .cprALat => { s with cprALat := w.setWidth 17 }
  | .cprALon => { s with cprALon := w.setWidth 17 }
  | .cprBLat => { s with cprBLat := w.setWidth 17 }
  | .cprBLon => { s with cprBLon := w.setWidth 17 }
  | .cprPar => { s with cprPar := w.setWidth 2 }
  | .cprLatNum => s
  | .cprLatZones => s
  | .cprLonNum => s
  | .cprLonZones => s
  | .cprJ => s
  | .cprM => s
  | .cprNl => s
  | .fbWord k => { s with fb := writeWindow s.fb s.frameMax k w }
  | .reserved => s

/-- Runs the command that word `w` encodes; an illegal word raises E_ILLEGAL_COMMAND and does nothing else
(30_encoding.md R95, R96; 60_exceptions.md R247). -/
def runCommand (w : Word) (s : State) : Outcome :=
  match decode w with
  | .ok i => exec i s
  | .error _ => raise .illegalCommand s

/-- HostWrite (20_memory.md R60, R67, R68; 10_state.md R31). -/
def hostWrite (a : Nat) (w : Word) (s : State) : Outcome :=
  match portReg a with
  | .cmd => runCommand w s
  | r => .next (writeReg w s r)

/-- HostRead: the value joins the run's observations; no register changes (20_memory.md R60, R67;
70_reset_and_hazards.md R278). -/
def hostRead (a : Nat) (s : State) : State :=
  s.logRead (readReg (Config.unspecifiedWord s.draws) s (portReg a))

/-- One event, to its end (20_memory.md R68; 70_reset_and_hazards.md R271). -/
def handleEvent (e : Event) (s : State) : Outcome :=
  match e with
  | .reset => .next (resetBlock s)
  | .read a => .next (hostRead a s)
  | .write a w => hostWrite a w s

end Sys2Proof.Machine
end

