-- ==== Sys2Proof/Machine/Step.lean ====
section
/-! DEFINITION. One step: the block takes the next event. -/

namespace Sys2Proof.Machine

/-- One step. The block does nothing on its own (00_scope.md R12; 60_exceptions.md R258): with no event to come it
stays as it is. Otherwise the oldest event happens, to its end (20_memory.md R68). -/
def step (s : State) : Host.Outcome State Fault Refusal :=
  match s.events with
  | [] => .next s
  | e :: rest => handleEvent e (s.setEvents rest)

/-- The state in which the host's next access writes this command word to CMD. The block fetches nothing
(20_memory.md R70): a program is the host's list of accesses (log 4). -/
def State.withFetchWord (s : State) (nbits w : Nat) : State :=
  s.setEvents (.write 0x000 (BitVec.ofNat 32 (w % 2 ^ nbits)) :: s.events)

end Sys2Proof.Machine
end

