-- ==== Sys2Proof/Machine/FrameMap.lean ====
section
/-! DEFINITION. The frame formats as data layouts: which stream bits each field of a frame is. The block checks none of
them (30_encoding.md R97, R103); a host reads them with the cursor. -/

namespace Sys2Proof.Machine

/-- A field of a frame: its name, its first stream position and its width. -/
structure FrameField where
  name : String
  position : Nat
  width : Nat
  deriving DecidableEq, Repr

/-- DF5 Surveillance Identity, 56 bits (30_encoding.md R98). -/
def df5Map : List FrameField :=
  [⟨"DF", 0, 5⟩, ⟨"FS", 5, 3⟩, ⟨"DR", 8, 5⟩, ⟨"UM", 13, 6⟩, ⟨"ID", 19, 13⟩, ⟨"AP", 32, 24⟩]

/-- DF17/18 Extended Squitter, 112 bits (30_encoding.md R99). -/
def squitterMap : List FrameField :=
  [⟨"DF", 0, 5⟩, ⟨"CA", 5, 3⟩, ⟨"AA", 8, 24⟩, ⟨"ME", 32, 56⟩, ⟨"PI", 88, 24⟩]

/-- The Aircraft Identification payload (30_encoding.md R100). -/
def identificationMap : List FrameField :=
  [⟨"TC", 32, 5⟩, ⟨"emitter_category", 37, 3⟩]
  ++ [⟨"character 1", 40, 6⟩, ⟨"character 2", 46, 6⟩, ⟨"character 3", 52, 6⟩, ⟨"character 4", 58, 6⟩,
    ⟨"character 5", 64, 6⟩, ⟨"character 6", 70, 6⟩, ⟨"character 7", 76, 6⟩, ⟨"character 8", 82, 6⟩]

/-- The Airborne Position payload, its altitude split into l, q and r (30_encoding.md R101). -/
def positionMap : List FrameField :=
  [⟨"TC", 32, 5⟩, ⟨"surveillance-status", 37, 3⟩, ⟨"altitude l", 40, 7⟩, ⟨"altitude q", 47, 1⟩, ⟨"altitude r", 48, 4⟩,
    ⟨"reserved", 52, 1⟩, ⟨"parity-bit", 53, 1⟩, ⟨"cpr-lat", 54, 17⟩, ⟨"cpr-lon", 71, 17⟩]

/-- The Airborne Velocity payload (30_encoding.md R102). -/
def velocityMap : List FrameField :=
  [⟨"TC", 32, 5⟩, ⟨"subtype", 37, 3⟩, ⟨"reserved", 40, 5⟩, ⟨"EW-sign", 45, 1⟩, ⟨"EW-vel", 46, 10⟩, ⟨"NS-sign", 56, 1⟩,
    ⟨"NS-vel", 57, 10⟩]
  ++ [⟨"vrate-source", 67, 1⟩, ⟨"vrate-sign", 68, 1⟩, ⟨"vrate", 69, 9⟩, ⟨"reserved", 78, 10⟩]

/-- The fields of a map follow each other without gap or overlap from position `start` to position `stop`. -/
def tiles (m : List FrameField) (start stop : Nat) : Bool :=
  match m with
  | [] => start == stop
  | f :: rest => f.position == start && tiles rest (start + f.width) stop

end Sys2Proof.Machine
end

