-- ==== Sys2Proof/Machine/Program.lean ====
section
/-! DEFINITION. The host's program notation: `wr`, `rd` and the pseudo-instructions, as lists of host accesses
(30_encoding.md R104, R105). -/

namespace Sys2Proof.Machine.Program

/-- offset(REG) (20_memory.md R62). A reserved register has many offsets; 0x0FC is one of them. -/
def offsetOf (r : PortReg) : Nat :=
  match r with
  | .cmd => 0x000
  | .status => 0x004
  | .caps => 0x008
  | .flen => 0x00C
  | .cursor => 0x010
  | .arg0 => 0x014
  | .arg1 => 0x018
  | .result => 0x01C
  | .crcRem => 0x020
  | .cprALat => 0x040
  | .cprALon => 0x044
  | .cprBLat => 0x048
  | .cprBLon => 0x04C
  | .cprPar => 0x050
  | .cprLatNum => 0x060
  | .cprLatZones => 0x064
  | .cprLonNum => 0x068
  | .cprLonZones => 0x06C
  | .cprJ => 0x070
  | .cprM => 0x074
  | .cprNl => 0x078
  | .fbWord k => 0x100 + 4 * k
  | .reserved => 0x0FC

/-- `wr REG, imm` (30_encoding.md R104). -/
def wr (r : PortReg) (imm : Word) : Event := .write (offsetOf r) imm

/-- `rd REG` (30_encoding.md R104). -/
def rd (r : PortReg) : Event := .read (offsetOf r)

/-- `(n << 8) | op` (30_encoding.md R105). -/
def widthWord (n : Nat) (op : Word) : Word := (BitVec.ofNat 32 n <<< 8) ||| op

/-- `begin`. -/
def beginFrame : List Event := [wr .cmd 0x00000008]

/-- `take n`. -/
def take (n : Nat) : List Event := [wr .cmd (widthWord n 0x01)]

/-- `peek n`. -/
def peek (n : Nat) : List Event := [wr .cmd (widthWord n 0x02)]

/-- `tag n, v`. -/
def tag (n : Nat) (v : Word) : List Event := [wr .arg0 v, wr .cmd (widthWord n 0x03)]

/-- `verify n, lo, hi`. -/
def verify (n : Nat) (lo hi : Word) : List Event := [wr .arg0 lo, wr .arg1 hi, wr .cmd (widthWord n 0x04)]

/-- `crc`. -/
def crc : List Event := [wr .cmd 0x00000010]

/-- `cpr`. -/
def cpr : List Event := [wr .cmd 0x00000020]

/-- `(b0 << 24) | (b1 << 16) | (b2 << 8) | b3`. -/
def packWord (b0 b1 b2 b3 : Byte) : Word :=
  (b0.setWidth 32 <<< 24) ||| (b1.setWidth 32 <<< 16) ||| (b2.setWidth 32 <<< 8) ||| b3.setWidth 32

/-- The window writes of `frame` from word `k` on; a byte past the last one is 0. -/
def frameWords (k : Nat) (bs : List Byte) : List Event :=
  match bs with
  | [] => []
  | [b0] => [wr (.fbWord k) (packWord b0 0 0 0)]
  | [b0, b1] => [wr (.fbWord k) (packWord b0 b1 0 0)]
  | [b0, b1, b2] => [wr (.fbWord k) (packWord b0 b1 b2 0)]
  | b0 :: b1 :: b2 :: b3 :: rest => wr (.fbWord k) (packWord b0 b1 b2 b3) :: frameWords (k + 1) rest

/-- `frame b0 .. b(L-1)`: the bytes, then FLEN. -/
def frame (bs : List Byte) : List Event := frameWords 0 bs ++ [wr .flen (BitVec.ofNat 32 bs.length)]

/-- `slot A, lat, lon`. -/
def slotA (lat lon : Word) : List Event := [wr .cprALat lat, wr .cprALon lon]

/-- `slot B, lat, lon`. -/
def slotB (lat lon : Word) : List Event := [wr .cprBLat lat, wr .cprBLon lon]

/-- `par pa, pb`. -/
def par (pa pb : Word) : List Event := [wr .cprPar ((pb <<< 1) ||| pa)]

/-- One `take` a field: the host reads past every field, the reserved ones too (30_encoding.md R103). -/
def takeFields (m : List FrameField) : List Event := m.flatMap fun f => take f.width

end Sys2Proof.Machine.Program
end

