-- ==== Sys2Proof/Safety.lean ====
section
/-! DEFINITION. What claims are said in: the invariant of the block, the states in which no command reads an unwritten
byte, and what it means to answer. -/

namespace Sys2Proof

open Sys2Proof.Machine

/-- The legal values of the CPR outputs (10_state.md R35, R36, R37): the latitude in [-90, 270) degrees, the
longitude in [-180, 180), and the ranges of J, M and NL. -/
structure OutputsLegal (o : CprOutputs) : Prop where
  latZones : o.latZones = 60 ∨ o.latZones = 59
  lat_ge : -(o.latZones.toNat * 131072 : Int) ≤ 4 * o.latNum.toInt
  lat_lt : 4 * o.latNum.toInt < 3 * (o.latZones.toNat * 131072 : Int)
  lonZones : 1 ≤ o.lonZones.toNat ∧ o.lonZones.toNat ≤ 59
  lon_ge : -(o.lonZones.toNat * 65536 : Int) ≤ o.lonNum.toInt
  lon_lt : o.lonNum.toInt < (o.lonZones.toNat * 65536 : Int)
  j : -60 ≤ o.j.toInt ∧ o.j.toInt ≤ 59
  m : -59 ≤ o.m.toInt ∧ o.m.toInt ≤ 58
  nl : 1 ≤ o.nl.toNat ∧ o.nl.toNat ≤ 59

/-- The invariant of the block: what holds at reset and after every step. -/
structure Inv (s : State) : Prop where
  /-- FRAME_MAX is a legal size (00_scope.md R5). -/
  frameMax : Config.LegalFrameMax s.frameMax
  /-- FB keeps its canonical form. -/
  fbWf : Memory.wf s.fb
  /-- FB holds bytes 0 to FRAME_MAX - 1 only (10_state.md R22; 20_memory.md R64). -/
  fbRange : ∀ c ∈ s.fb, c.1 < s.frameMax
  /-- OFF ≤ 8 · FRAME_MAX (10_state.md R24). -/
  cursor : s.cursor.toNat ≤ 8 * s.frameMax
  /-- While the last command has raised, ANYERR is set (10_state.md R29). -/
  anyErr : s.status.err ≠ .none → s.status.anyErr = true
  /-- CRCZ says that CRC_REM is 0 (10_state.md R28, R29). -/
  crcz : s.status.crcz = true → s.crcRem = 0
  /-- CPR_VALID = 0 while the outputs are absent, and only then (10_state.md R38). -/
  cprValid : s.status.cprValid = s.cprOut.isSome
  /-- Outputs that are present are legal (10_state.md R35, R36, R37). -/
  outputs : ∀ o, s.cprOut = some o → OutputsLegal o

/-- The host has written the whole frame: no command of this state reads an unwritten byte (70_reset_and_hazards.md
R272). -/
def FrameWritten (s : State) : Prop := ∀ i, i < s.flen.toNat → (s.fb.read i).isSome = true

/-- A step or command answers a next state. -/
def Answers (o : Machine.Outcome) : Prop := ∃ t, o = .next t

end Sys2Proof
end

