-- ==== Sys2Proof/Certificates/Slice0/Obligations.lean ====
section
/-! DEFINITION. The statements for the provers, and the words they are said in. -/

namespace Sys2Proof.Claims

open Sys2Proof.Machine

/-- The state after `raise Error(c)`: ERR and ANYERR, nothing else (60_exceptions.md R241). -/
def failed (c : ErrorCode) (s : State) : State :=
  { s with status := { s.status with err := c, anyErr := true } }

/-- FrameBit(p) on a byte string (00_scope.md R9). -/
def frameBitOf (byte : Nat → Byte) (p : Nat) : Nat := (byte (p / 8)).toNat / 2 ^ (7 - p % 8) % 2

/-- Bits(off, n) on a byte string: the sum of 00_scope.md R9. -/
def fieldOf (byte : Nat → Byte) (off n : Nat) : Nat :=
  ∑ i ∈ Finset.range n, frameBitOf byte (off + i) * 2 ^ (n - 1 - i)

/-- A cursor command of width `n` passes every check and reads the bytes `byte` (30_encoding.md R91;
40_bit_cursor.md R131, R133, R141). -/
structure FieldReady (n : BitVec 6) (s : State) (byte : Nat → Byte) : Prop where
  width : LegalWidth n
  length : s.flen.toNat ≤ s.frameMax
  bounds : s.cursor.toNat + n.toNat ≤ 8 * s.flen.toNat
  written : ∀ k, k < n.toNat → s.fb.read ((s.cursor.toNat + k) / 8) = some (byte ((s.cursor.toNat + k) / 8))

/-- A word with this OPCODE that decodes to no command raises E_ILLEGAL_COMMAND: RSVD ≠ 0, or WIDTH ≠ 0 on a command
that takes none (30_encoding.md R95, R96). -/
def RejectsIllegalWords (op : Nat) (takesWidth : Bool) : Prop :=
  ∀ w s, w.toNat % 2 ^ 8 = op → (w.toNat / 2 ^ 14 ≠ 0 ∨ takesWidth = false ∧ w.toNat / 2 ^ 8 ≠ 0) →
    runCommand w s = .next (failed .illegalCommand s)

/-- The illegal words: RSVD ≠ 0, an OPCODE that is none of the seven, or WIDTH ≠ 0 on BEGIN, CRC_COMPUTE or CPR_RESOLVE
(30_encoding.md R95). -/
def IllegalWord (w : Word) : Prop :=
  w.toNat / 2 ^ 14 ≠ 0 ∨ w.toNat % 2 ^ 8 ∉ [0x01, 0x02, 0x03, 0x04, 0x08, 0x10, 0x20] ∨
    (w.toNat % 2 ^ 8 ∈ [0x08, 0x10, 0x20] ∧ w.toNat / 2 ^ 8 % 2 ^ 6 ≠ 0)

/-- The errors every cursor command shares, in their order: the word, the width, the length, the bounds
(40_bit_cursor.md R131, R133; 60_exceptions.md R248, R251). -/
def CursorChecks (op : Nat) (command : BitVec 6 → Instr) : Prop :=
  RejectsIllegalWords op true ∧ ∀ n s,
    ((n.toNat = 0 ∨ 33 ≤ n.toNat) → exec (command n) s = .next (failed .illegalWidth s)) ∧
    (LegalWidth n → s.frameMax < s.flen.toNat → exec (command n) s = .next (failed .badLength s)) ∧
    (LegalWidth n → s.flen.toNat ≤ s.frameMax → 8 * s.flen.toNat < s.cursor.toNat + n.toNat →
      exec (command n) s = .next (failed .truncated s))

/-- The block has the frame `byte` of at least three bytes, all written. -/
structure FrameReady (s : State) (byte : Nat → Byte) : Prop where
  length : s.flen.toNat ≤ s.frameMax
  three : 3 ≤ s.flen.toNat
  written : ∀ i, i < s.flen.toNat → s.fb.read i = some (byte i)

/-- One round of the table's construction (41_crc24.md R171), on numbers. -/
def crcRound (c : Nat) : Nat := if c.testBit 23 then (2 * c % 2 ^ 24) ^^^ 0xFFF409 else 2 * c % 2 ^ 24

/-- CRC_TABLE[i] (41_crc24.md R171), on numbers. -/
def crcTableEntry (i : Nat) : Nat := crcRound^[8] (i * 2 ^ 16)

/-- MemRead(L-3, 3) (00_scope.md R9). -/
def lastThree (byte : Nat → Byte) (len : Nat) : Nat :=
  (byte (len - 3)).toNat * 65536 + (byte (len - 2)).toNat * 256 + (byte (len - 1)).toNat

/-- The remainder of the pseudocode (41_crc24.md R173), on numbers. -/
def tableCrc (byte : Nat → Byte) (len : Nat) : Nat :=
  (List.range (len - 3)).foldl
    (fun rem i => ((rem * 256) ^^^ crcTableEntry ((byte i).toNat ^^^ rem / 65536 % 256)) % 2 ^ 24) 0
  ^^^ lastThree byte len

/-- The bit-serial remainder (41_crc24.md R175), on numbers. -/
def serialCrc (byte : Nat → Byte) (len : Nat) : Nat :=
  (List.range (8 * (len - 3))).foldl
    (fun rem p => if rem / 2 ^ 23 % 2 = frameBitOf byte p then 2 * rem % 2 ^ 24 else (2 * rem % 2 ^ 24) ^^^ 0xFFF409) 0
  ^^^ lastThree byte len

/-- The byte string with stream bit `p` flipped. -/
def flipBit (byte : Nat → Byte) (p i : Nat) : Byte := if i = p / 8 then byte i ^^^ BitVec.twoPow 8 (7 - p % 8) else byte i

/-- The even frame and the odd frame of a pair of opposite parities (42_cpr.md R202). -/
def evenFrame (a b : CprFrame) : CprFrame := if a.parity = .even then a else b

/-- The odd frame of a pair of opposite parities (42_cpr.md R202). -/
def oddFrame (a b : CprFrame) : CprFrame := if a.parity = .even then b else a

/-- "frac = raw / 131072" (42_cpr.md R203). -/
def frac (raw : Nat) : ℚ := raw / 131072

/-- J by the source's formula (42_cpr.md R204). -/
def sourceJ (e o : CprFrame) : ℤ := ⌊59 * frac e.lat - 60 * frac o.lat + 1 / 2⌋

/-- "shifted down by 360° if ≥ 270°" (42_cpr.md R207). -/
def below270 (x : ℚ) : ℚ := if 270 ≤ x then x - 360 else x

/-- "shifted down by 360° if ≥ 180°" (42_cpr.md R213). -/
def below180 (x : ℚ) : ℚ := if 180 ≤ x then x - 360 else x

/-- The latitude in degrees by the source's formulas: the candidate of the latest frame (42_cpr.md R205 to R208). -/
def sourceLat (e o latest : CprFrame) : ℚ :=
  match latest.parity with
  | .even => below270 (360 / 60 * ((sourceJ e o % 60 : ℤ) + frac e.lat))
  | .odd => below270 (360 / 59 * ((sourceJ e o % 59 : ℤ) + frac o.lat))

/-- NL of |latitude| in degrees over a table of T[n] · 10^8 (42_cpr.md R209). -/
def sourceNl (table : List (Nat × Nat)) (a : ℚ) : Nat :=
  match table with
  | [] => if a ≤ 87 then 2 else 1
  | (n, t) :: rest => if a < t / 10 ^ 8 then n else sourceNl rest a

/-- M by the source's formula (42_cpr.md R211). -/
def sourceM (e o : CprFrame) (nl : Nat) : ℤ := ⌊frac e.lon * ((nl : ℚ) - 1) - frac o.lon * nl + 1 / 2⌋

/-- "NL (even) or NL-1 (odd), floored to a minimum of 1" (42_cpr.md R212). -/
def sourceZones (latest : CprFrame) (nl : Nat) : ℤ :=
  match latest.parity with
  | .even => max (nl : ℤ) 1
  | .odd => max ((nl : ℤ) - 1) 1

/-- The longitude in degrees by the source's formula (42_cpr.md R213). -/
def sourceLon (e o latest : CprFrame) (nl : Nat) : ℚ :=
  below180 (360 / sourceZones latest nl * ((sourceM e o nl % sourceZones latest nl : ℤ) + frac latest.lon))

/-- The registers that no command writes, and every byte of FB, are as before (40_bit_cursor.md R132;
60_exceptions.md R241). -/
structure InputsKept (s t : State) : Prop where
  fb : ∀ i, t.fb.read i = s.fb.read i
  flen : t.flen = s.flen
  arg0 : t.arg0 = s.arg0
  arg1 : t.arg1 = s.arg1
  cprALat : t.cprALat = s.cprALat
  cprALon : t.cprALon = s.cprALon
  cprBLat : t.cprBLat = s.cprBLat
  cprBLon : t.cprBLon = s.cprBLon
  cprPar : t.cprPar = s.cprPar
  frameMax : t.frameMax = s.frameMax
  events : t.events = s.events
  reads : t.reads = s.reads
  draws : t.draws = s.draws

/-- The reset values of 70_reset_and_hazards.md R270. -/
structure RegistersAtReset (t : State) : Prop where
  fb : ∀ i, t.fb.read i = none
  flen : t.flen = 0
  cursor : t.cursor = 0
  arg0 : t.arg0 = 0
  arg1 : t.arg1 = 0
  result : t.result = 0
  crcRem : t.crcRem = 0
  err : t.status.err = .none
  anyErr : t.status.anyErr = false
  crcz : t.status.crcz = false
  cprValid : t.status.cprValid = false
  cprALat : t.cprALat = 0
  cprALon : t.cprALon = 0
  cprBLat : t.cprBLat = 0
  cprBLon : t.cprBLon = 0
  cprPar : t.cprPar = 0
  cprOut : t.cprOut = none

/-- The command word `w` raises the code `c` in state `s`. -/
def Raises (w : Word) (s : State) (c : ErrorCode) : Prop := ∃ t, runCommand w s = .next t ∧ t.status.err = c

/-- The cursor commands and their widths. -/
def cursorWidth (i : Instr) : Option (BitVec 6) :=
  match i with
  | .take n => some n
  | .peek n => some n
  | .tag n => some n
  | .verify n => some n
  | .beginFrame => none
  | .crcCompute => none
  | .cprResolve => none

/-- The word offset a host access acts on (20_memory.md R61, R66). -/
def wordAt (a : Nat) : Nat := a % 512 - a % 4

/-- Host writes here are ignored: the read-only registers and the reserved offsets of the map (20_memory.md R62,
R63). -/
def IgnoresWrites (o : Nat) : Prop :=
  o ∈ [0x004, 0x008, 0x010, 0x01C, 0x020, 0x060, 0x064, 0x068, 0x06C, 0x070, 0x074, 0x078] ∨
    (0x020 < o ∧ o < 0x040) ∨ (0x050 < o ∧ o < 0x060) ∨ (0x078 < o ∧ o < 0x100) ∨ 0x180 ≤ o

/-- Offsets that the map does not list (20_memory.md R62, R63). -/
def Reserved (o : Nat) : Prop :=
  (0x020 < o ∧ o < 0x040) ∨ (0x050 < o ∧ o < 0x060) ∨ (0x078 < o ∧ o < 0x100) ∨ 0x180 ≤ o

end Sys2Proof.Claims

open Sys2Proof Sys2Proof.Machine Sys2Proof.Claims

/-! ### Encoding and dispatch -/

/-- 30_encoding.md Part 1 (R90, R94): no bit of an encoding is dropped. -/
def Obligations.DecodeOfEncode : Prop := ∀ i : Instr, decode (encode i) = .ok i

/-- 30_encoding.md Part 1 (R94): the converse; a command has one word only. -/
def Obligations.EncodeOfDecode : Prop := ∀ (w : Word) (i : Instr), decode w = .ok i → encode i = w

/-- 30_encoding.md R94: a word is a row's command exactly when it has the row's match under the row's mask, and the
operand of a cursor command is the word's bits [13:8]. -/
def Obligations.OpcodeMapIsTheTable : Prop :=
  ∀ w : Word,
    (∀ n, decode w = .ok (.take n) ↔ w &&& 0xFFFFC0FF = 0x00000001 ∧ n.toNat = w.toNat / 2 ^ 8 % 2 ^ 6) ∧
    (∀ n, decode w = .ok (.peek n) ↔ w &&& 0xFFFFC0FF = 0x00000002 ∧ n.toNat = w.toNat / 2 ^ 8 % 2 ^ 6) ∧
    (∀ n, decode w = .ok (.tag n) ↔ w &&& 0xFFFFC0FF = 0x00000003 ∧ n.toNat = w.toNat / 2 ^ 8 % 2 ^ 6) ∧
    (∀ n, decode w = .ok (.verify n) ↔ w &&& 0xFFFFC0FF = 0x00000004 ∧ n.toNat = w.toNat / 2 ^ 8 % 2 ^ 6) ∧
    (decode w = .ok .beginFrame ↔ w &&& 0xFFFFFFFF = 0x00000008) ∧
    (decode w = .ok .crcCompute ↔ w &&& 0xFFFFFFFF = 0x00000010) ∧
    (decode w = .ok .cprResolve ↔ w &&& 0xFFFFFFFF = 0x00000020)

/-- The words of 95_test_vectors.md decode to the commands they stand for there. -/
def Obligations.VectorWordsDecode : Prop :=
  decode 0x00002001 = .ok (.take 32) ∧ decode 0x00000502 = .ok (.peek 5) ∧ decode 0x00000503 = .ok (.tag 5) ∧
    decode 0x00000504 = .ok (.verify 5) ∧ decode 0x00000008 = .ok .beginFrame ∧ decode 0x00000010 = .ok .crcCompute ∧
    decode 0x00000020 = .ok .cprResolve

/-- 10_state.md R31: a host write of a word to CMD runs the command that it encodes, as one step; CMD stores nothing
and reads as 0. -/
def Obligations.StepRunsTheWrittenCommand : Prop :=
  (∀ s a w rest i, s.events = .write a w :: rest → wordAt a = 0x000 → decode w = .ok i →
    step s = exec i { s with events := rest }) ∧
  ∀ s a rest, s.events = .read a :: rest → wordAt a = 0x000 →
    step s = .next { s with events := rest, reads := s.reads ++ [0], draws := s.draws + 1 }

/-- 30_encoding.md R96, with R91, R95 and 60_exceptions.md R247, R248: the checks on a command word in the order
written, on every 32-bit word; the first that fails names the error. -/
def Obligations.CommandWordChecksInOrder : Prop :=
  ∀ s a w rest, s.events = .write a w :: rest → wordAt a = 0x000 →
    let op := w.toNat % 2 ^ 8
    let n := w.toNat / 2 ^ 8 % 2 ^ 6
    let s' := { s with events := rest }
    step s =
      if w.toNat / 2 ^ 14 ≠ 0 then .next (failed .illegalCommand s')
      else if op ∉ [0x01, 0x02, 0x03, 0x04, 0x08, 0x10, 0x20] then .next (failed .illegalCommand s')
      else if op ∈ [0x08, 0x10, 0x20] ∧ n ≠ 0 then .next (failed .illegalCommand s')
      else if op ∈ [0x01, 0x02, 0x03, 0x04] ∧ (n < 1 ∨ n > 32) then .next (failed .illegalWidth s')
      else if op = 0x01 then exec (.take (BitVec.ofNat 6 n)) s'
      else if op = 0x02 then exec (.peek (BitVec.ofNat 6 n)) s'
      else if op = 0x03 then exec (.tag (BitVec.ofNat 6 n)) s'
      else if op = 0x04 then exec (.verify (BitVec.ofNat 6 n)) s'
      else if op = 0x08 then exec .beginFrame s'
      else if op = 0x10 then exec .crcCompute s'
      else exec .cprResolve s'

/-- 00_scope.md R12: the block has no autonomous steps. -/
def Obligations.NoEventNoChange : Prop := ∀ s : State, s.events = [] → step s = .next s

/-! ### The bit cursor -/

/-- 40_bit_cursor.md R134. -/
def Obligations.BeginRestartsTheCursor : Prop :=
  decode 0x00000008 = .ok .beginFrame ∧ RejectsIllegalWords 0x08 false ∧
  ∀ s : State, exec .beginFrame s =
    .next { s with cursor := 0, status := { s.status with anyErr := false, err := .none } }

/-- 40_bit_cursor.md R135. -/
def Obligations.TakeConsumesItsField : Prop :=
  (∀ n : BitVec 6, decode (n.setWidth 32 <<< 8 ||| 0x01) = .ok (.take n)) ∧
  (∀ n s byte, FieldReady n s byte →
    ∃ t, exec (.take n) s = .next t ∧ t.result.toNat = fieldOf byte s.cursor.toNat n.toNat ∧
      t.cursor.toNat = s.cursor.toNat + n.toNat ∧
      t = { s with result := t.result, cursor := t.cursor, status := { s.status with err := .none } }) ∧
  CursorChecks 0x01 .take

/-- 40_bit_cursor.md R136. -/
def Obligations.PeekReadsWithoutAdvancing : Prop :=
  (∀ n : BitVec 6, decode (n.setWidth 32 <<< 8 ||| 0x02) = .ok (.peek n)) ∧
  (∀ n s byte, FieldReady n s byte →
    ∃ t, exec (.peek n) s = .next t ∧ t.result.toNat = fieldOf byte s.cursor.toNat n.toNat ∧
      t = { s with result := t.result, status := { s.status with err := .none } }) ∧
  CursorChecks 0x02 .peek

/-- 40_bit_cursor.md R137 and 30_encoding.md R92: TAG compares the field with all 32 bits of ARG0. -/
def Obligations.TagDemandsItsValue : Prop :=
  (∀ n : BitVec 6, decode (n.setWidth 32 <<< 8 ||| 0x03) = .ok (.tag n)) ∧
  (∀ n s byte, FieldReady n s byte → fieldOf byte s.cursor.toNat n.toNat = s.arg0.toNat →
    ∃ t, exec (.tag n) s = .next t ∧ t.cursor.toNat = s.cursor.toNat + n.toNat ∧
      t = { s with result := s.arg0, cursor := t.cursor, status := { s.status with err := .none } }) ∧
  (∀ n s byte, FieldReady n s byte → fieldOf byte s.cursor.toNat n.toNat ≠ s.arg0.toNat →
    exec (.tag n) s = .next (failed .unexpectedValue s)) ∧
  (∀ n s byte, FieldReady n s byte → 2 ^ n.toNat ≤ s.arg0.toNat →
    exec (.tag n) s = .next (failed .unexpectedValue s)) ∧
  CursorChecks 0x03 .tag

/-- 40_bit_cursor.md R138 and 30_encoding.md R93: VERIFY holds on the inclusive unsigned range [ARG0, ARG1]. -/
def Obligations.VerifyDemandsItsRange : Prop :=
  (∀ n : BitVec 6, decode (n.setWidth 32 <<< 8 ||| 0x04) = .ok (.verify n)) ∧
  (∀ n s byte, FieldReady n s byte →
    s.arg0.toNat ≤ fieldOf byte s.cursor.toNat n.toNat ∧ fieldOf byte s.cursor.toNat n.toNat ≤ s.arg1.toNat →
    ∃ t, exec (.verify n) s = .next t ∧ t.result.toNat = fieldOf byte s.cursor.toNat n.toNat ∧
      t.cursor.toNat = s.cursor.toNat + n.toNat ∧
      t = { s with result := t.result, cursor := t.cursor, status := { s.status with err := .none } }) ∧
  (∀ n s byte, FieldReady n s byte →
    ¬(s.arg0.toNat ≤ fieldOf byte s.cursor.toNat n.toNat ∧ fieldOf byte s.cursor.toNat n.toNat ≤ s.arg1.toNat) →
    exec (.verify n) s = .next (failed .constraintViolation s)) ∧
  CursorChecks 0x04 .verify

/-- 40_bit_cursor.md R140, which the spec derives: three TAKE 8 read what one TAKE 24 reads, at any offset. -/
def Obligations.ThreeBytesMakeOneField : Prop :=
  ∀ s byte, FieldReady 24 s byte →
    ∃ s₁ s₂ s₃ t, exec (.take 8) s = .next s₁ ∧ exec (.take 8) s₁ = .next s₂ ∧ exec (.take 8) s₂ = .next s₃ ∧
      exec (.take 24) s = .next t ∧ t.result = s₁.result <<< 16 ||| s₂.result <<< 8 ||| s₃.result ∧
      t.cursor = s₃.cursor

/-- 40_bit_cursor.md R136, corner cases, which the spec derives: a PEEK and then a TAKE of the same width give the same
RESULT. -/
def Obligations.PeekForetellsTake : Prop :=
  ∀ n s t, exec (.peek n) s = .next t → t.status.err = .none →
    ∃ u, exec (.take n) t = .next u ∧ u.result = t.result ∧ u.status.err = .none

/-- 40_bit_cursor.md R139, which the spec derives: no command looks at an FB byte at or beyond FLEN. With two frame
buffers that agree below FLEN a command does the same, stops included. -/
def Obligations.NoByteBeyondTheFrameIsRead : Prop :=
  ∀ i s m, (∀ k, k < s.flen.toNat → Memory.read m k = s.fb.read k) →
    (∀ t, exec i s = .next t → exec i { s with fb := m } = .next { t with fb := m }) ∧
    (∀ f, exec i s = .fault f → exec i { s with fb := m } = .fault f)

/-- 40_bit_cursor.md R141: a cursor command whose bit range touches an unwritten byte faults and names an unwritten
byte of that range. (Which one, where there are several, is the model's choice: log 5.) -/
def Obligations.UnwrittenFieldByteFaults : Prop :=
  ∀ i n s, cursorWidth i = some n → LegalWidth n → s.flen.toNat ≤ s.frameMax →
    s.cursor.toNat + n.toNat ≤ 8 * s.flen.toNat →
    (∃ k, k < n.toNat ∧ s.fb.read ((s.cursor.toNat + k) / 8) = none) →
    ∃ k, k < n.toNat ∧ s.fb.read ((s.cursor.toNat + k) / 8) = none ∧
      exec i s = .fault (.unwrittenByte ((s.cursor.toNat + k) / 8))

/-- 41_crc24.md R179, last case, which the spec derives: so does CRC_COMPUTE below FLEN. (Which byte is named, where
there are several, is the model's choice: log 5.) -/
def Obligations.UnwrittenCrcByteFaults : Prop :=
  ∀ s, s.flen.toNat ≤ s.frameMax → 3 ≤ s.flen.toNat → (∃ k, k < s.flen.toNat ∧ s.fb.read k = none) →
    ∃ k, k < s.flen.toNat ∧ s.fb.read k = none ∧ exec .crcCompute s = .fault (.unwrittenByte k)

/-! ### The CRC-24 engine -/

/-- 41_crc24.md R172, R173, R174 over the table of R171: CRC_COMPUTE's result, and its errors in their order. R171
takes the table's construction "from general knowledge, not in source", so the statement is derived. -/
def Obligations.CrcFollowsThePseudocode : Prop :=
  decode 0x00000010 = .ok .crcCompute ∧ RejectsIllegalWords 0x10 false ∧
  (∀ s byte, FrameReady s byte →
    ∃ t, exec .crcCompute s = .next t ∧ t.crcRem.toNat = tableCrc byte s.flen.toNat ∧
      t = { s with
        crcRem := t.crcRem
        status := { s.status with crcz := decide (t.crcRem.toNat = 0), err := .none } }) ∧
  (∀ s, s.frameMax < s.flen.toNat → exec .crcCompute s = .next (failed .badLength s)) ∧
  (∀ s, s.flen.toNat ≤ s.frameMax → s.flen.toNat < 3 → exec .crcCompute s = .next (failed .crcInputTooShort s))

/-- 41_crc24.md R175, which the spec derives: the table-driven remainder is the bit-serial one. -/
def Obligations.CrcIsBitSerial : Prop :=
  ∀ s byte, FrameReady s byte →
    ∃ t, exec .crcCompute s = .next t ∧ t.crcRem.toNat = serialCrc byte s.flen.toNat

/-- 41_crc24.md R175, which the spec derives: the remainder is linear over GF(2). -/
def Obligations.CrcIsLinear : Prop :=
  ∀ s₁ s₂ s₃ byte₁ byte₂, FrameReady s₁ byte₁ → FrameReady s₂ byte₂ → FrameReady s₃ (fun i => byte₁ i ^^^ byte₂ i) →
    s₂.flen = s₁.flen → s₃.flen = s₁.flen →
    ∃ t₁ t₂ t₃, exec .crcCompute s₁ = .next t₁ ∧ exec .crcCompute s₂ = .next t₂ ∧ exec .crcCompute s₃ = .next t₃ ∧
      t₃.crcRem = t₁.crcRem ^^^ t₂.crcRem

/-- 41_crc24.md R175 and R177, which the spec derives: flipping any one bit of a frame changes the remainder, and a
flip in the last 24 bits flips exactly that bit of it. -/
def Obligations.CrcDetectsEveryBitFlip : Prop :=
  ∀ s s' byte p, FrameReady s byte → FrameReady s' (flipBit byte p) → s'.flen = s.flen → p < 8 * s.flen.toNat →
    ∃ t t', exec .crcCompute s = .next t ∧ exec .crcCompute s' = .next t' ∧ t'.crcRem ≠ t.crcRem ∧
      (8 * (s.flen.toNat - 3) ≤ p → t'.crcRem = t.crcRem ^^^ BitVec.twoPow 24 (8 * s.flen.toNat - 1 - p))

/-- 41_crc24.md R179, which the spec derives: three bytes are their own remainder, `b 00 00 00` gives CRC_TABLE[b], an
all-zero frame gives 0 and sets CRCZ. -/
def Obligations.CrcCornerCases : Prop :=
  (∀ s byte, FrameReady s byte → s.flen.toNat = 3 →
    ∃ t, exec .crcCompute s = .next t ∧
      t.crcRem.toNat = (byte 0).toNat * 65536 + (byte 1).toNat * 256 + (byte 2).toNat) ∧
  (∀ s byte, FrameReady s byte → s.flen.toNat = 4 → byte 1 = 0 → byte 2 = 0 → byte 3 = 0 →
    ∃ t, exec .crcCompute s = .next t ∧ t.crcRem.toNat = crcTableEntry (byte 0).toNat) ∧
  (∀ s byte, FrameReady s byte → (∀ i, i < s.flen.toNat → byte i = 0) →
    ∃ t, exec .crcCompute s = .next t ∧ t.crcRem = 0 ∧ t.status.crcz = true)

/-- 41_crc24.md R180 and the source's DF5 example: whatever else the state holds, the frame 28 00 08 08 F4 60 E0 gives
A40442. -/
def Obligations.SourceFrameRecoversItsAddress : Prop :=
  ∀ s byte, FrameReady s byte → s.flen.toNat = 7 → byte 0 = 0x28 → byte 1 = 0x00 → byte 2 = 0x08 → byte 3 = 0x08 →
    byte 4 = 0xF4 → byte 5 = 0x60 → byte 6 = 0xE0 →
    ∃ t, exec .crcCompute s = .next t ∧ t.crcRem = 0xA40442 ∧ t.status.crcz = false

/-! ### The CPR resolver -/

/-- 42_cpr.md R201: equal parities give an absent result and no error, and nothing else changes. -/
def Obligations.EqualParitiesGiveNoPosition : Prop :=
  decode 0x00000020 = .ok .cprResolve ∧ RejectsIllegalWords 0x20 false ∧
  ∀ s : State, s.cprPar.getLsbD 0 = s.cprPar.getLsbD 1 →
    exec .cprResolve s =
      .next { s with cprOut := none, status := { s.status with cprValid := false, err := .none } }

/-- 42_cpr.md R200 and R202 to R213: for opposite parities the output registers are exactly the source's formulas, in
rational degrees. The parity sense (10_state.md R34) and the table of R214 are "from general knowledge, not in source",
so the statement is derived. -/
def Obligations.ResolverIsTheSourceFormulas : Prop :=
  ∀ s : State, s.cprPar.getLsbD 0 ≠ s.cprPar.getLsbD 1 →
    let e := evenFrame (slotA s) (slotB s)
    let o := oddFrame (slotA s) (slotB s)
    let latest := slotB s
    let lat := sourceLat e o latest
    let nl := sourceNl nlTable |lat|
    ∃ t out, exec .cprResolve s = .next t ∧
      t = { s with cprOut := some out, status := { s.status with cprValid := true, err := .none } } ∧
      out.j.toInt = sourceJ e o ∧
      out.latZones.toNat = (if latest.parity = .even then 60 else 59) ∧
      360 * (out.latNum.toInt : ℚ) / (out.latZones.toNat * 131072) = lat ∧
      out.nl.toNat = nl ∧
      out.m.toInt = sourceM e o nl ∧
      (out.lonZones.toNat : ℤ) = sourceZones latest nl ∧
      360 * (out.lonNum.toInt : ℚ) / (out.lonZones.toNat * 131072) = sourceLon e o latest nl

/-- 10_state.md R35, R36, R37, whose ranges the spec derives: the outputs a CPR_RESOLVE writes are legal, whatever the
inputs. -/
def Obligations.ResolverOutputsAreLegal : Prop :=
  ∀ s : State, s.cprPar.getLsbD 0 ≠ s.cprPar.getLsbD 1 →
    ∃ t out, exec .cprResolve s = .next t ∧ t.cprOut = some out ∧ OutputsLegal out

/-- 42_cpr.md R209: NL never grows as |latitude| grows, latitudes compared as the rationals N/Z. -/
def Obligations.ZoneCountNeverGrows : Prop :=
  ∀ n₁ z₁ n₂ z₂ : Nat, 0 < z₁ → 0 < z₂ → n₁ * z₂ ≤ n₂ * z₁ → nlZones nlTable n₂ z₂ ≤ nlZones nlTable n₁ z₁

/-- 42_cpr.md R216, slot order, which the spec derives: swapping the slots changes neither J nor, where NL stays the
same, M. -/
def Obligations.SwappedSlotsKeepIndices : Prop :=
  ∀ s s' : State, s.cprPar.getLsbD 0 ≠ s.cprPar.getLsbD 1 →
    s'.cprALat = s.cprBLat → s'.cprALon = s.cprBLon → s'.cprBLat = s.cprALat → s'.cprBLon = s.cprALon →
    s'.cprPar.getLsbD 0 = s.cprPar.getLsbD 1 → s'.cprPar.getLsbD 1 = s.cprPar.getLsbD 0 →
    ∃ t t' out out', exec .cprResolve s = .next t ∧ exec .cprResolve s' = .next t' ∧ t.cprOut = some out ∧
      t'.cprOut = some out' ∧ out'.j = out.j ∧ (out'.nl = out.nl → out'.m = out.m)

/-- 10_state.md R39: only the next CPR_RESOLVE or a reset changes the CPR outputs, CPR_VALID with them. -/
def Obligations.PositionPersists : Prop :=
  ∀ s t : State, step s = .next t → (t.cprOut ≠ s.cprOut ∨ t.status.cprValid ≠ s.status.cprValid) →
    (∃ rest, s.events = .reset :: rest) ∨
    ∃ a w rest, s.events = .write a w :: rest ∧ wordAt a = 0x000 ∧ decode w = .ok .cprResolve

/-! ### The host port -/

/-- 20_memory.md R62, R67 with 10_state.md R23 to R37: what a host read returns at each register's offset, and that it
changes no register. (That a read adds to the model's own list and counter is log 3 and log 6.) -/
def Obligations.HostReadsFollowTheMap : Prop :=
  ∀ s a rest, Config.LegalFrameMax s.frameMax → s.events = .read a :: rest →
    ∃ v : Word, step s = .next { s with events := rest, reads := s.reads ++ [v], draws := s.draws + 1 } ∧
      (wordAt a = 0x004 → v.toNat = s.status.err.code.toNat + 16 * s.status.anyErr.toNat + 32 * s.status.crcz.toNat
        + 64 * s.status.cprValid.toNat) ∧
      (wordAt a = 0x008 → v.toNat = s.frameMax + 256) ∧
      (wordAt a = 0x00C → v.toNat = s.flen.toNat) ∧
      (wordAt a = 0x010 → v.toNat = s.cursor.toNat) ∧
      (wordAt a = 0x014 → v = s.arg0) ∧
      (wordAt a = 0x018 → v = s.arg1) ∧
      (wordAt a = 0x01C → v = s.result) ∧
      (wordAt a = 0x020 → v.toNat = s.crcRem.toNat) ∧
      (wordAt a = 0x040 → v.toNat = s.cprALat.toNat) ∧
      (wordAt a = 0x044 → v.toNat = s.cprALon.toNat) ∧
      (wordAt a = 0x048 → v.toNat = s.cprBLat.toNat) ∧
      (wordAt a = 0x04C → v.toNat = s.cprBLon.toNat) ∧
      (wordAt a = 0x050 → v.toNat = s.cprPar.toNat) ∧
      (∀ out, s.cprOut = some out →
        (wordAt a = 0x060 → v = out.latNum) ∧ (wordAt a = 0x064 → v.toNat = out.latZones.toNat) ∧
        (wordAt a = 0x068 → v = out.lonNum) ∧ (wordAt a = 0x06C → v.toNat = out.lonZones.toNat) ∧
        (wordAt a = 0x070 → v = out.j) ∧ (wordAt a = 0x074 → v = out.m) ∧
        (wordAt a = 0x078 → v.toNat = out.nl.toNat))

/-- 10_state.md R23, R25, R26, R32, R33, R34 and 20_memory.md R62: what a host write stores at each register's offset,
and that nothing else changes. -/
def Obligations.HostWritesFollowTheMap : Prop :=
  ∀ s a w rest, s.events = .write a w :: rest →
    (wordAt a = 0x00C → step s = .next { s with events := rest, flen := BitVec.ofNat 8 (w.toNat % 2 ^ 8) }) ∧
    (wordAt a = 0x014 → step s = .next { s with events := rest, arg0 := w }) ∧
    (wordAt a = 0x018 → step s = .next { s with events := rest, arg1 := w }) ∧
    (wordAt a = 0x040 → step s = .next { s with events := rest, cprALat := BitVec.ofNat 17 (w.toNat % 2 ^ 17) }) ∧
    (wordAt a = 0x044 → step s = .next { s with events := rest, cprALon := BitVec.ofNat 17 (w.toNat % 2 ^ 17) }) ∧
    (wordAt a = 0x048 → step s = .next { s with events := rest, cprBLat := BitVec.ofNat 17 (w.toNat % 2 ^ 17) }) ∧
    (wordAt a = 0x04C → step s = .next { s with events := rest, cprBLon := BitVec.ofNat 17 (w.toNat % 2 ^ 17) }) ∧
    (wordAt a = 0x050 → step s = .next { s with events := rest, cprPar := BitVec.ofNat 2 (w.toNat % 2 ^ 2) })

/-- 20_memory.md R63: reserved offsets and CMD read 0, and a window byte at or beyond FRAME_MAX reads 0; a write to a
reserved offset, to a read-only register or to a window word at or beyond FRAME_MAX is ignored. -/
def Obligations.ReservedOffsetsDoNothing : Prop :=
  (∀ s a rest, s.events = .read a :: rest →
    (Reserved (wordAt a) ∨ wordAt a = 0x000 ∨
      (0x100 ≤ wordAt a ∧ wordAt a < 0x180 ∧ s.frameMax ≤ wordAt a - 0x100)) →
    step s = .next { s with events := rest, reads := s.reads ++ [0], draws := s.draws + 1 }) ∧
  ∀ s a w rest, s.events = .write a w :: rest →
    (IgnoresWrites (wordAt a) ∨ (0x100 ≤ wordAt a ∧ wordAt a < 0x180 ∧ s.frameMax ≤ wordAt a - 0x100)) →
    step s = .next { s with events := rest }

/-- 20_memory.md R64: what a host read of the FB window returns, byte by byte, where an unwritten byte may read as
anything; and what a host write of it stores, where every other byte and every register stays as it was. -/
def Obligations.WindowIsPackedBigEndian : Prop :=
  (∀ s a rest, s.events = .read a :: rest → 0x100 ≤ wordAt a → wordAt a < 0x180 →
    ∃ v : Word, step s = .next { s with events := rest, reads := s.reads ++ [v], draws := s.draws + 1 } ∧
      ∀ j, j < 4 →
        (s.frameMax ≤ wordAt a - 0x100 + j → v.toNat / 2 ^ (24 - 8 * j) % 256 = 0) ∧
        (∀ b, wordAt a - 0x100 + j < s.frameMax → s.fb.read (wordAt a - 0x100 + j) = some b →
          v.toNat / 2 ^ (24 - 8 * j) % 256 = b.toNat)) ∧
  ∀ s a w rest, s.events = .write a w :: rest → 0x100 ≤ wordAt a → wordAt a < 0x180 →
    ∃ t, step s = .next t ∧ t = { s with events := rest, fb := t.fb } ∧
      (∀ j, j < 4 → wordAt a - 0x100 + j < s.frameMax →
        t.fb.read (wordAt a - 0x100 + j) = some (BitVec.ofNat 8 (w.toNat / 2 ^ (24 - 8 * j)))) ∧
      (∀ i, (∀ j, j < 4 → wordAt a - 0x100 + j < s.frameMax → i ≠ wordAt a - 0x100 + j) → t.fb.read i = s.fb.read i)

/-- 20_memory.md R64, R68: a window word that lies wholly below FRAME_MAX reads back as it was written, whatever was
there and whatever the unspecified values are. -/
def Obligations.WindowReadsBackWhatWasWritten : Prop :=
  ∀ s a w rest, s.events = .write a w :: .read a :: rest → 0x100 ≤ wordAt a → wordAt a < 0x180 →
    wordAt a - 0x100 + 3 < s.frameMax →
    ∃ t, Sys2Proof.core.run 2 s = .next t ∧ t.events = rest ∧ t.reads = s.reads ++ [w]

/-- 70_reset_and_hazards.md R270, R271: the registers after power-up and after every reset event. CAPS keeps its constant
and the CRC table its values. Derived: the table is R171's construction, "from general knowledge, not in source" (log 15);
that a reset event is an event of the host trace and keeps FRAME_MAX and the accesses to come is log 3 and log 9. -/
def Obligations.ResetGivesTheResetState : Prop :=
  RegistersAtReset State.reset ∧ (∀ b : Byte, (crcTable b).toNat = crcTableEntry b.toNat) ∧
  ∀ s rest, Config.LegalFrameMax s.frameMax → s.events = .reset :: rest →
    ∃ t, step s = .next t ∧ RegistersAtReset t ∧ (∀ d, (readReg d t .caps).toNat = s.frameMax + 256) ∧ t.events = rest

/-! ### Whole-machine rules -/

/-- 60_exceptions.md R241: a command that raises changes ERR and ANYERR and nothing else, and no command writes FB, FLEN,
ARG0, ARG1 or the CPR inputs. The accesses to come stay, so the next one runs. -/
def Obligations.FailureChangesOnlyStatus : Prop :=
  ∀ w s t, runCommand w s = .next t →
    (t.status.err ≠ .none → t = failed t.status.err s) ∧ InputsKept s t

/-- 60_exceptions.md R240, R242 to R248 and 30_encoding.md R95: each code, its number,
the commands that raise it and the cause. -/
def Obligations.EachCodeNamesItsCause : Prop :=
  (ErrorCode.code .none = 0 ∧ ErrorCode.code .truncated = 1 ∧ ErrorCode.code .unexpectedValue = 2 ∧
    ErrorCode.code .constraintViolation = 3 ∧ ErrorCode.code .crcInputTooShort = 4 ∧
    ErrorCode.code .illegalCommand = 5 ∧ ErrorCode.code .illegalWidth = 6 ∧ ErrorCode.code .badLength = 7) ∧
  ∀ w s,
    (Raises w s .truncated ↔ ∃ i n, decode w = .ok i ∧ cursorWidth i = some n ∧ LegalWidth n ∧
      s.flen.toNat ≤ s.frameMax ∧ 8 * s.flen.toNat < s.cursor.toNat + n.toNat) ∧
    (Raises w s .unexpectedValue ↔ ∃ n byte, decode w = .ok (.tag n) ∧ FieldReady n s byte ∧
      fieldOf byte s.cursor.toNat n.toNat ≠ s.arg0.toNat) ∧
    (Raises w s .constraintViolation ↔ ∃ n byte, decode w = .ok (.verify n) ∧ FieldReady n s byte ∧
      ¬(s.arg0.toNat ≤ fieldOf byte s.cursor.toNat n.toNat ∧ fieldOf byte s.cursor.toNat n.toNat ≤ s.arg1.toNat)) ∧
    (Raises w s .crcInputTooShort ↔ decode w = .ok .crcCompute ∧ s.flen.toNat ≤ s.frameMax ∧ s.flen.toNat < 3) ∧
    (Raises w s .illegalCommand ↔ IllegalWord w) ∧
    (Raises w s .illegalWidth ↔ ∃ i n, decode w = .ok i ∧ cursorWidth i = some n ∧ ¬LegalWidth n) ∧
    (Raises w s .badLength ↔ s.frameMax < s.flen.toNat ∧
      (decode w = .ok .crcCompute ∨ ∃ i n, decode w = .ok i ∧ cursorWidth i = some n ∧ LegalWidth n))

/-- 40_bit_cursor.md R132, R134 to R138, 41_crc24.md R172, 42_cpr.md R200: the frame of every command. -/
def Obligations.CommandFrames : Prop :=
  ∀ i s t, exec i s = .next t →
    InputsKept s t ∧
    (∀ n, cursorWidth i = some n → t.crcRem = s.crcRem ∧ t.cprOut = s.cprOut ∧ t.status.crcz = s.status.crcz ∧
      t.status.cprValid = s.status.cprValid ∧ (t.status.err = .none → t.status.anyErr = s.status.anyErr)) ∧
    (∀ n, i = .peek n → t.cursor = s.cursor) ∧
    (i = .beginFrame → t.result = s.result ∧ t.crcRem = s.crcRem ∧ t.cprOut = s.cprOut ∧
      t.status.crcz = s.status.crcz ∧ t.status.cprValid = s.status.cprValid) ∧
    (i = .crcCompute → t.cursor = s.cursor ∧ t.result = s.result ∧ t.cprOut = s.cprOut ∧
      t.status.cprValid = s.status.cprValid ∧ (t.status.err = .none → t.status.anyErr = s.status.anyErr)) ∧
    (i = .cprResolve → t.cursor = s.cursor ∧ t.result = s.result ∧ t.crcRem = s.crcRem ∧
      t.status.crcz = s.status.crcz ∧ t.status.anyErr = s.status.anyErr)

/-- 10_state.md R29, 60_exceptions.md R253: once ANYERR is set, only BEGIN or a reset clears it. -/
def Obligations.OnlyBeginClearsAnyErr : Prop :=
  ∀ s t : State, step s = .next t → s.status.anyErr = true → t.status.anyErr = false →
    (∃ rest, s.events = .reset :: rest) ∨ ∃ a rest, s.events = .write a 0x00000008 :: rest ∧ wordAt a = 0x000

/-- 10_state.md R21, R24: CURSOR moves only by TAKE, TAG and VERIFY, forward by the width, or to 0 by BEGIN or a
reset. -/
def Obligations.OnlyCursorCommandsMoveCursor : Prop :=
  ∀ s t : State, step s = .next t → t.cursor ≠ s.cursor →
    (t.cursor = 0 ∧ ∃ rest, s.events = .reset :: rest) ∨
    ∃ a w rest, s.events = .write a w :: rest ∧ wordAt a = 0x000 ∧
      ((t.cursor = 0 ∧ decode w = .ok .beginFrame) ∨
        ∃ n, (decode w = .ok (.take n) ∨ decode w = .ok (.tag n) ∨ decode w = .ok (.verify n)) ∧
          t.cursor.toNat = s.cursor.toNat + n.toNat)

/-- 10_state.md R22, R23 and 20_memory.md R64: a byte of FB changes only by a host write of its window word or a reset,
FLEN only by a host write of FLEN or a reset. -/
def Obligations.OnlyTheHostWritesTheFrame : Prop :=
  ∀ s t : State, step s = .next t →
    (∀ i, t.fb.read i ≠ s.fb.read i →
      (∃ rest, s.events = .reset :: rest) ∨
      ∃ a w rest, s.events = .write a w :: rest ∧ wordAt a = 0x100 + 4 * (i / 4) ∧ wordAt a < 0x180 ∧
        i < s.frameMax) ∧
    (t.flen ≠ s.flen →
      (∃ rest, s.events = .reset :: rest) ∨ ∃ a w rest, s.events = .write a w :: rest ∧ wordAt a = 0x00C)

/-- 00_scope.md R5, 10_state.md R41, R30: FRAME_MAX is no state; it never changes. (That it stands in State is
log 1.) -/
def Obligations.FrameMaxNeverChanges : Prop := ∀ s t : State, step s = .next t → t.frameMax = s.frameMax

/-- The invariant holds at reset. -/
def Obligations.InvariantAtReset : Prop := Inv State.reset

/-- 10_state.md R22, R24, R29, R35 to R38, ranges which the spec derives: every step keeps the invariant. -/
def Obligations.EveryStepKeepsTheInvariant : Prop := ∀ s t : State, Inv s → step s = .next t → Inv t

/-- 60_exceptions.md R259, which the spec derives: with the frame written, every access and every command word has a
next state; the only stop there is, is the read of an unwritten byte of a frame that fits. -/
def Obligations.BlockNeverSticks : Prop :=
  ∀ s : State,
    (FrameWritten s → Answers (step s)) ∧
    (∀ f, step s = .fault f →
      ∃ k, f = .unwrittenByte k ∧ k < s.flen.toNat ∧ s.flen.toNat ≤ s.frameMax ∧ s.fb.read k = none) ∧
    (∀ r, step s ≠ .refused r)

/-! ### Program notation and frame layouts -/

/-- 30_encoding.md R105: the words of the pseudo-instructions are the commands', and offset(REG) is where the port
finds the register. -/
def Obligations.PseudoInstructionsAreTheirCommands : Prop :=
  (∀ n : BitVec 6, Program.take n.toNat = [.write 0 (encode (.take n))] ∧
    Program.peek n.toNat = [.write 0 (encode (.peek n))] ∧
    (∀ v, Program.tag n.toNat v = [.write 0x014 v, .write 0 (encode (.tag n))]) ∧
    ∀ lo hi, Program.verify n.toNat lo hi = [.write 0x014 lo, .write 0x018 hi, .write 0 (encode (.verify n))]) ∧
  Program.beginFrame = [.write 0 (encode .beginFrame)] ∧ Program.crc = [.write 0 (encode .crcCompute)] ∧
  Program.cpr = [.write 0 (encode .cprResolve)] ∧
  ∀ r, (∀ k, r = .fbWord k → k < 32) → portReg (Program.offsetOf r) = r

/-- 30_encoding.md R105 and 70_reset_and_hazards.md R272: `frame b0 .. b(L-1)` puts the bytes at FB[0..L-1], zeros up to
the end of the last word, and L into FLEN; it changes nothing else. -/
def Obligations.FrameLoadsItsBytes : Prop :=
  ∀ s bytes rest, Config.LegalFrameMax s.frameMax → bytes.length ≤ s.frameMax →
    s.events = Program.frame bytes ++ rest →
    ∃ t, Sys2Proof.core.run (Program.frame bytes).length s = .next t ∧
      t = { s with events := rest, fb := t.fb, flen := t.flen } ∧
      t.flen.toNat = bytes.length ∧
      (∀ i b, bytes[i]? = some b → t.fb.read i = some b) ∧
      (∀ i, bytes.length ≤ i → i / 4 < (bytes.length + 3) / 4 → i < s.frameMax → t.fb.read i = some 0) ∧
      (∀ i, (bytes.length + 3) / 4 ≤ i / 4 → t.fb.read i = s.fb.read i)

/-- 30_encoding.md R98 to R103: one `take` a field, over any layout without gaps whose fields have a legal width, reads
the fields one after the other and ends at the layout's end. -/
def Obligations.FieldsAreReadInOrder : Prop :=
  ∀ s m stop rest, tiles m s.cursor.toNat stop = true → (∀ f ∈ m, 1 ≤ f.width ∧ f.width ≤ 32) →
    stop ≤ 8 * s.flen.toNat → s.flen.toNat ≤ s.frameMax → FrameWritten s →
    s.events = Program.takeFields m ++ rest →
    ∃ t, Sys2Proof.core.run (Program.takeFields m).length s = .next t ∧ t.events = rest ∧ t.cursor.toNat = stop ∧
      (∀ f byte, m.getLast? = some f → (∀ i, i < s.flen.toNat → s.fb.read i = some (byte i)) →
        t.result.toNat = fieldOf byte f.position f.width ∧ t.status.err = .none)

/-- 30_encoding.md R98 to R102: the layouts have no gap and no overlap and fill 56 and 112 bits; every payload fills the
squitter's field ME. -/
def Obligations.LayoutsFillTheirFrames : Prop :=
  tiles df5Map 0 56 = true ∧ tiles squitterMap 0 112 = true ∧ tiles identificationMap 32 88 = true ∧
    tiles positionMap 32 88 = true ∧ tiles velocityMap 32 88 = true
end

