-- ==== Sys2Proof/Laws/Cpr.lean ====
section
/-! SUPPORT. What each step of the resolver can give: its ranges, and which pairs it resolves. -/

namespace Sys2Proof.Machine

theorem latIndex_range (e o : Int) (he₀ : 0 ≤ e) (he : e < 131072) (ho₀ : 0 ≤ o) (ho : o < 131072) :
    -60 ≤ latIndex e o ∧ latIndex e o ≤ 59 := by
  unfold latIndex
  constructor <;> omega

theorem lonIndex_range (e o nl : Int) (he₀ : 0 ≤ e) (he : e < 131072) (ho₀ : 0 ≤ o) (ho : o < 131072) (hn₁ : 1 ≤ nl)
    (hn : nl ≤ 59) : -59 ≤ lonIndex e o nl ∧ lonIndex e o nl ≤ 58 := by
  have h₁ : 0 ≤ e * (nl - 1) := by nlinarith
  have h₂ : e * (nl - 1) ≤ 131071 * 58 := by nlinarith
  have h₃ : 0 ≤ o * nl := by nlinarith
  have h₄ : o * nl ≤ 131071 * 59 := by nlinarith
  unfold lonIndex
  constructor <;> omega

/-- The latitude is in [-90, 270) degrees (42_cpr.md R207). -/
theorem wrapLat_range (z j raw : Int) (hz : 0 < z) (h₀ : 0 ≤ raw) (h : raw < 131072) :
    -(z * 131072) ≤ 4 * wrapLat z (latCandidate z j raw) ∧ 4 * wrapLat z (latCandidate z j raw) < 3 * (z * 131072) := by
  have hm₀ := Int.emod_nonneg j hz.ne'
  have hm := Int.emod_lt_of_pos j hz
  unfold wrapLat latCandidate
  split <;> constructor <;> omega

/-- The longitude is in [-180, 180) degrees (42_cpr.md R213). -/
theorem wrapLon_range (z m raw : Int) (hz : 0 < z) (h₀ : 0 ≤ raw) (h : raw < 131072) :
    -(z * 65536) ≤ wrapLon z (lonCandidate z m raw) ∧ wrapLon z (lonCandidate z m raw) < z * 65536 := by
  have hm₀ := Int.emod_nonneg m hz.ne'
  have hm := Int.emod_lt_of_pos m hz
  unfold wrapLon lonCandidate
  split <;> constructor <;> omega

/-- NL is in [1, 59] (10_state.md R37). -/
theorem nlZones_range (table : List (Nat × Nat)) (absN z : Nat) (h : ∀ c ∈ table, 1 ≤ c.1 ∧ c.1 ≤ 59) :
    1 ≤ nlZones table absN z ∧ nlZones table absN z ≤ 59 := by
  induction table with
  | nil => simp only [nlZones]; split <;> omega
  | cons c rest ih =>
    obtain ⟨n, t⟩ := c
    simp only [nlZones]
    split
    · exact h (n, t) (by simp)
    · exact ih fun c hc => h c (by simp [hc])

theorem nlTable_rows : ∀ c ∈ nlTable, 1 ≤ c.1 ∧ c.1 ≤ 59 := by decide

/-- ni is in [1, 59] (42_cpr.md R212). -/
theorem zoneCount_range (p : Parity) (nl : Nat) (h : nl ≤ 59) : 1 ≤ zoneCount p nl ∧ zoneCount p nl ≤ 59 := by
  unfold zoneCount
  cases p <;> simp <;> omega

/-- Equal parities resolve to nothing (42_cpr.md R201). -/
theorem resolve_equal (a b : CprFrame) (h : a.parity = b.parity) : resolve a b = none := by
  unfold resolve
  rw [h]
  cases b.parity <;> rfl

/-- Opposite parities resolve to the position of the even and the odd frame (42_cpr.md R202). -/
theorem resolve_opposite (a b : CprFrame) (h : a.parity ≠ b.parity) :
    resolve a b = some (if a.parity = .even then resolvePair a b b else resolvePair b a b) := by
  unfold resolve
  cases ha : a.parity <;> cases hb : b.parity <;> simp_all

end Sys2Proof.Machine
end

