-- ==== Sys2Proof/Laws/Crc.lean ====
section
/-! SUPPORT. The algebra of the CRC engine: its rounds are linear and lose nothing, and the table step is eight rounds. -/

namespace Sys2Proof.Machine

theorem crcShift_xor (a b : Rem) : crcShift (a ^^^ b) = crcShift a ^^^ crcShift b := by
  have hs : (a ^^^ b) <<< 1 = a <<< 1 ^^^ b <<< 1 := BitVec.shiftLeft_xor_distrib a b 1
  unfold crcShift
  rw [BitVec.getLsbD_xor, hs]
  cases ha : a.getLsbD 23 <;> cases hb : b.getLsbD 23 <;> simp
  · exact BitVec.xor_assoc _ _ _
  · rw [BitVec.xor_assoc, BitVec.xor_comm (b <<< 1), ← BitVec.xor_assoc]
  · rw [BitVec.xor_assoc, BitVec.xor_comm crcPoly, BitVec.xor_assoc (b <<< 1), BitVec.xor_self, BitVec.xor_zero]

theorem crcShifts_xor (k : Nat) (a b : Rem) : crcShifts k (a ^^^ b) = crcShifts k a ^^^ crcShifts k b := by
  induction k generalizing a b with
  | zero => rfl
  | succ k ih => simp only [crcShifts, crcShift_xor, ih]

theorem crcShifts_succ (k : Nat) (c : Rem) : crcShifts (k + 1) c = crcShift (crcShifts k c) := by
  induction k generalizing c with
  | zero => rfl
  | succ k ih => exact ih (crcShift c)

theorem crcShifts_add (j k : Nat) (c : Rem) : crcShifts (j + k) c = crcShifts k (crcShifts j c) := by
  induction k with
  | zero => rfl
  | succ k ih => rw [← Nat.add_assoc, crcShifts_succ, ih, crcShifts_succ]

theorem crcShift_zero : crcShift 0 = 0 := by decide

theorem crcShifts_zero (k : Nat) : crcShifts k 0 = 0 := by
  induction k with
  | zero => rfl
  | succ k ih => rw [crcShifts_succ, ih, crcShift_zero]

/-- A round loses nothing, because G has a constant term (41_crc24.md R175). -/
theorem crcShift_eq_zero (c : Rem) (h : crcShift c = 0) : c = 0 := by
  unfold crcShift at h
  split at h
  · have := congrArg (fun x => x.getLsbD 0) h
    simp [crcPoly] at this
  · rename_i hc
    ext i hi
    by_cases h23 : i = 23
    · subst h23
      simpa [BitVec.getLsbD_eq_getElem] using hc
    · have := congrArg (fun x => x.getLsbD (i + 1)) h
      have hlt : i + 1 < 24 := by omega
      simpa [hlt, BitVec.getLsbD_eq_getElem, hi] using this

theorem crcShifts_eq_zero (k : Nat) (c : Rem) (h : crcShifts k c = 0) : c = 0 := by
  induction k generalizing c with
  | zero => exact h
  | succ k ih => exact crcShift_eq_zero c (ih _ h)

/-- While the top bit is clear a round is a shift. -/
theorem crcShift_low (c : Rem) (h : c.getLsbD 23 = false) : crcShift c = c <<< 1 := by
  simp only [crcShift, h, Bool.false_eq_true, if_false]

theorem crcShifts_low (k : Nat) (c : Rem) (h : ∀ i, 24 - k ≤ i → i < 24 → c.getLsbD i = false) :
    crcShifts k c = c <<< k := by
  induction k with
  | zero => simp [crcShifts]
  | succ k ih =>
    rw [crcShifts_succ, ih fun i h₁ h₂ => h i (by omega) h₂, crcShift_low]
    · rw [← BitVec.shiftLeft_add]
    · by_cases hk : k < 24
      · have := h (23 - k) (by omega) (by omega)
        simp only [BitVec.getLsbD_shiftLeft, this, Bool.and_false]
      · simp only [BitVec.getLsbD_shiftLeft]
        have : 23 < k := by omega
        simp [this]

theorem lowMask_getLsbD (i : Nat) : (0x00FFFF#24).getLsbD i = decide (i < 16) := by
  by_cases h : i < 24
  · have hall : ∀ j : Fin 24, (0x00FFFF#24).getLsbD j.val = decide (j.val < 16) := by decide
    exact hall ⟨i, h⟩
  · rw [BitVec.getLsbD_of_ge _ _ (by omega)]
    simp
    omega

/-- A remainder is its low sixteen bits and its top byte. -/
theorem rem_split (x : Rem) : x = (x &&& 0x00FFFF#24) ^^^ ((x.extractLsb' 16 8).setWidth 24 <<< 16) := by
  apply BitVec.eq_of_getLsbD_eq
  intro i hi
  rw [BitVec.getLsbD_xor, BitVec.getLsbD_and, lowMask_getLsbD, BitVec.getLsbD_shiftLeft, BitVec.getLsbD_setWidth,
    BitVec.getLsbD_extractLsb']
  by_cases h : i < 16
  · simp [h]
  · have h₁ : 16 + (i - 16) = i := by omega
    have h₂ : i - 16 < 8 := by omega
    have h₃ : i - 16 < 24 := by omega
    simp [h, hi, h₁, h₂, h₃]

theorem topByte_xor (x : Rem) (b : Byte) : (x ^^^ (b.setWidth 24 <<< 16)).extractLsb' 16 8 = b ^^^ x.extractLsb' 16 8 := by
  apply BitVec.eq_of_getLsbD_eq
  intro i hi
  rw [BitVec.getLsbD_xor, BitVec.getLsbD_extractLsb', BitVec.getLsbD_extractLsb', BitVec.getLsbD_xor,
    BitVec.getLsbD_shiftLeft, BitVec.getLsbD_setWidth]
  have h₁ : 16 + i < 24 := by omega
  have h₂ : i < 24 := by omega
  simp [hi, h₁, h₂, Bool.xor_comm]

theorem lowBits_xor (x : Rem) (b : Byte) : (x ^^^ (b.setWidth 24 <<< 16)) &&& 0x00FFFF#24 = x &&& 0x00FFFF#24 := by
  apply BitVec.eq_of_getLsbD_eq
  intro i hi
  rw [BitVec.getLsbD_and, BitVec.getLsbD_and, BitVec.getLsbD_xor, BitVec.getLsbD_shiftLeft, lowMask_getLsbD]
  by_cases h : i < 16 <;> simp [h]

theorem lowBits_rounds (x : Rem) : crcShifts 8 (x &&& 0x00FFFF#24) = x <<< 8 := by
  rw [crcShifts_low]
  · apply BitVec.eq_of_getLsbD_eq
    intro i hi
    rw [BitVec.getLsbD_shiftLeft, BitVec.getLsbD_shiftLeft, BitVec.getLsbD_and, lowMask_getLsbD]
    have : i - 8 < 16 := by omega
    simp [this]
  · intro i h₁ h₂
    rw [BitVec.getLsbD_and, lowMask_getLsbD]
    have : ¬i < 16 := by omega
    simp [this]

/-- The table step is eight rounds on the remainder with the byte XOR-ed into its top (41_crc24.md R171, R173). -/
theorem crcStep_eq_rounds (rem : Rem) (b : Byte) : crcStep rem b = crcShifts 8 (rem ^^^ (b.setWidth 24 <<< 16)) := by
  rw [rem_split (rem ^^^ (b.setWidth 24 <<< 16)), crcShifts_xor, topByte_xor, lowBits_xor, lowBits_rounds,
    crcStep, crcTable]

/-- The table step is linear over GF(2) (41_crc24.md R175). -/
theorem crcStep_xor (r₁ r₂ : Rem) (b₁ b₂ : Byte) : crcStep (r₁ ^^^ r₂) (b₁ ^^^ b₂) = crcStep r₁ b₁ ^^^ crcStep r₂ b₂ := by
  have h : (b₁ ^^^ b₂).setWidth 24 <<< 16 = (b₁.setWidth 24 <<< 16) ^^^ (b₂.setWidth 24 <<< 16) := by
    rw [BitVec.setWidth_xor, BitVec.shiftLeft_xor_distrib]
  rw [crcStep_eq_rounds, crcStep_eq_rounds, crcStep_eq_rounds, ← crcShifts_xor, h]
  generalize b₁.setWidth 24 <<< 16 = c₁
  generalize b₂.setWidth 24 <<< 16 = c₂
  rw [show (r₁ ^^^ r₂) ^^^ (c₁ ^^^ c₂) = (r₁ ^^^ c₁) ^^^ (r₂ ^^^ c₂) by ac_rfl]

theorem crcData_append (bs : List Byte) (b : Byte) : crcData (bs ++ [b]) = crcStep (crcData bs) b := by
  simp [crcData, List.foldl_append]

end Sys2Proof.Machine
end

