-- ==== Sys2Proof/Laws/Decode.lean ====
section
/-! SUPPORT. The fields of a command word as numbers, and a word as its fields. -/

namespace Sys2Proof

theorem opcodeOf_toNat (w : Word) : (opcodeOf w).toNat = w.toNat % 2 ^ 8 := by
  simp [opcodeOf, BitVec.extractLsb'_toNat]

theorem widthOf_toNat (w : Word) : (widthOf w).toNat = w.toNat / 2 ^ 8 % 2 ^ 6 := by
  simp [widthOf, BitVec.extractLsb'_toNat, Nat.shiftRight_eq_div_pow]

theorem rsvdOf_toNat (w : Word) : (rsvdOf w).toNat = w.toNat / 2 ^ 14 := by
  have := w.isLt
  simp only [rsvdOf, BitVec.extractLsb'_toNat, Nat.shiftRight_eq_div_pow]
  omega

/-- RSVD, WIDTH and OPCODE make up the word (30_encoding.md R90). -/
theorem word_fields (w : Word) : (rsvdOf w ++ widthOf w) ++ opcodeOf w = w := by
  unfold rsvdOf widthOf opcodeOf
  ext i hi
  simp only [BitVec.getElem_append, BitVec.getElem_extractLsb']
  split
  · simp [BitVec.getLsbD_eq_getElem, hi]
  · split
    · have : 8 + (i - 8) = i := by omega
      simp [this, BitVec.getLsbD_eq_getElem, hi]
    · have : 14 + (i - 8 - 6) = i := by omega
      simp [this, BitVec.getLsbD_eq_getElem, hi]

/-- A word is fixed by its three fields. -/
theorem word_ext (v w : Word) (h₁ : rsvdOf v = rsvdOf w) (h₂ : widthOf v = widthOf w) (h₃ : opcodeOf v = opcodeOf w) :
    v = w := by
  rw [← word_fields v, ← word_fields w, h₁, h₂, h₃]

/-- What a decoded word is made of: no reserved bit, the row's opcode, and the width as it stands or 0. -/
theorem decode_ok (w : Word) (i : Instr) (h : decode w = .ok i) :
    rsvdOf w = 0 ∧
      ((opcodeOf w = 0x01 ∧ i = .take (widthOf w)) ∨ (opcodeOf w = 0x02 ∧ i = .peek (widthOf w)) ∨
        (opcodeOf w = 0x03 ∧ i = .tag (widthOf w)) ∨ (opcodeOf w = 0x04 ∧ i = .verify (widthOf w)) ∨
        (opcodeOf w = 0x08 ∧ widthOf w = 0 ∧ i = .beginFrame) ∨
        (opcodeOf w = 0x10 ∧ widthOf w = 0 ∧ i = .crcCompute) ∨
        (opcodeOf w = 0x20 ∧ widthOf w = 0 ∧ i = .cprResolve)) := by
  unfold decode noWidth at h
  split at h
  · cases h
  · rename_i hr
    refine ⟨by simpa using hr, ?_⟩
    repeat' split at h
    all_goals cases h
    all_goals simp_all

end Sys2Proof
end

