-- ==== Sys2Proof/Laws/Frame.lean ====
section
/-! SUPPORT. What the reads of the frame answer: `frameByte`, `frameBit`, `bits`, `frameBytes`. -/

namespace Sys2Proof.Machine

theorem frameByte_ok_iff (m : Memory) (i : Nat) (b : Byte) : frameByte m i = .ok b ↔ m.read i = some b := by
  unfold frameByte
  cases m.read i <;> simp

theorem frameByte_error_iff (m : Memory) (i k : Nat) : frameByte m i = .error k ↔ m.read i = none ∧ i = k := by
  unfold frameByte
  cases m.read i <;> simp

theorem frameBit_eq (m : Memory) (p : Nat) (b : Byte) (h : m.read (p / 8) = some b) :
    frameBit m p = .ok (b.getLsbD (7 - p % 8)) := by
  unfold frameBit
  rw [(frameByte_ok_iff _ _ _).2 h]

theorem frameBit_error_iff (m : Memory) (p k : Nat) : frameBit m p = .error k ↔ m.read (p / 8) = none ∧ p / 8 = k := by
  unfold frameBit
  rw [← frameByte_error_iff]
  cases frameByte m (p / 8) <;> simp

/-- One more bit at the end of a field (40_bit_cursor.md R130). -/
theorem bits_succ (m : Memory) (off k v : Nat) (b : Bool) (hv : bits m off k = .ok v)
    (hb : frameBit m (off + k) = .ok b) : bits m off (k + 1) = .ok (2 * v + b.toNat) := by
  simp [bits, hv, hb]

/-- A field of n bits is below 2^n (40_bit_cursor.md R130). -/
theorem bits_lt (m : Memory) (off n v : Nat) (h : bits m off n = .ok v) : v < 2 ^ n := by
  induction n generalizing v with
  | zero => simp [bits] at h; omega
  | succ k ih =>
    simp only [bits] at h
    split at h
    · cases h
    · rename_i u hu
      split at h
      · cases h
      · rename_i b hb
        have hlt := ih u hu
        cases h
        have : b.toNat ≤ 1 := by cases b <;> simp
        rw [pow_succ]
        omega

/-- A field read fails only on an unwritten byte that the field touches. -/
theorem bits_error (m : Memory) (off n i : Nat) (h : bits m off n = .error i) :
    m.read i = none ∧ ∃ k, k < n ∧ (off + k) / 8 = i := by
  induction n with
  | zero => simp [bits] at h
  | succ k ih =>
    simp only [bits] at h
    split at h
    · rename_i j hj
      cases h
      obtain ⟨h₁, l, hl, h₂⟩ := ih hj
      exact ⟨h₁, l, by omega, h₂⟩
    · split at h
      · rename_i j hj
        cases h
        rw [frameBit_error_iff] at hj
        exact ⟨hj.2 ▸ hj.1, k, by omega, hj.2⟩
      · cases h

/-- A field read answers a value when every byte it touches has been written. -/
theorem bits_ok (m : Memory) (off n : Nat) (h : ∀ k, k < n → (m.read ((off + k) / 8)).isSome = true) :
    ∃ v, bits m off n = .ok v := by
  cases hb : bits m off n with
  | ok v => exact ⟨v, rfl⟩
  | error i =>
    obtain ⟨h₁, k, hk, h₂⟩ := bits_error _ _ _ _ hb
    have := h k hk
    rw [h₂, h₁] at this
    cases this

/-- A field read looks at no byte but those it touches. -/
theorem bits_congr (m m' : Memory) (off n : Nat) (h : ∀ k, k < n → m'.read ((off + k) / 8) = m.read ((off + k) / 8)) :
    bits m' off n = bits m off n := by
  induction n with
  | zero => rfl
  | succ k ih =>
    have hk : frameBit m' (off + k) = frameBit m (off + k) := by
      simp only [frameBit, frameByte, h k (by omega)]
    simp only [bits, ih fun j hj => h j (by omega), hk]

/-- The bytes of the frame, when all have been written. -/
theorem frameBytes_ok (m : Memory) (byte : Nat → Byte) (start n : Nat)
    (h : ∀ k, k < n → m.read (start + k) = some (byte (start + k))) :
    frameBytes m start n = .ok ((List.range' start n).map byte) := by
  induction n generalizing start with
  | zero => rfl
  | succ k ih =>
    have h0 : frameByte m start = .ok (byte start) := (frameByte_ok_iff _ _ _).2 (by simpa using h 0 (by omega))
    have hr := ih (start + 1) fun j hj => by
      have := h (j + 1) (by omega)
      rwa [show start + (j + 1) = start + 1 + j by omega] at this
    simp only [frameBytes, h0, hr]
    rfl

theorem frameBytes_length (m : Memory) (start n : Nat) (bs : List Byte) (h : frameBytes m start n = .ok bs) :
    bs.length = n := by
  induction n generalizing start bs with
  | zero => cases h; rfl
  | succ k ih =>
    simp only [frameBytes] at h
    split at h
    · cases h
    · split at h
      · cases h
      · rename_i b hb bs' hbs
        cases h
        simp [ih _ _ hbs]

/-- Reading the frame fails only on an unwritten byte of it. -/
theorem frameBytes_error (m : Memory) (start n i : Nat) (h : frameBytes m start n = .error i) :
    m.read i = none ∧ start ≤ i ∧ i < start + n := by
  induction n generalizing start with
  | zero => cases h
  | succ k ih =>
    simp only [frameBytes] at h
    split at h
    · rename_i j hj
      cases h
      rw [frameByte_error_iff] at hj
      obtain ⟨h₁, rfl⟩ := hj
      exact ⟨h₁, le_refl _, by omega⟩
    · split at h
      · rename_i j hj
        cases h
        obtain ⟨h₁, h₂, h₃⟩ := ih _ hj
        exact ⟨h₁, by omega, by omega⟩
      · cases h

/-- Reading the frame looks at no byte outside it. -/
theorem frameBytes_congr (m m' : Memory) (start n : Nat)
    (h : ∀ i, start ≤ i → i < start + n → m'.read i = m.read i) : frameBytes m' start n = frameBytes m start n := by
  induction n generalizing start with
  | zero => rfl
  | succ k ih =>
    have h0 : frameByte m' start = frameByte m start := by simp only [frameByte, h start (by omega) (by omega)]
    simp only [frameBytes, h0, ih (start + 1) fun i h₁ h₂ => h i (by omega) (by omega)]

end Sys2Proof.Machine
end

