-- ==== Sys2Proof/Laws/State.lean ====
section
/-! SUPPORT. What each named update of State and STATUS does to each field: one line a field, all true by unfolding. -/

namespace Sys2Proof.Machine

variable (s : State) (st : Status)

@[simp] theorem State.setResult_fb (v : Nat) : (s.setResult v).fb = s.fb := rfl
@[simp] theorem State.setResult_flen (v : Nat) : (s.setResult v).flen = s.flen := rfl
@[simp] theorem State.setResult_cursor (v : Nat) : (s.setResult v).cursor = s.cursor := rfl
@[simp] theorem State.setResult_arg0 (v : Nat) : (s.setResult v).arg0 = s.arg0 := rfl
@[simp] theorem State.setResult_arg1 (v : Nat) : (s.setResult v).arg1 = s.arg1 := rfl
@[simp] theorem State.setResult_result (v : Nat) : (s.setResult v).result = BitVec.ofNat 32 v := rfl
@[simp] theorem State.setResult_crcRem (v : Nat) : (s.setResult v).crcRem = s.crcRem := rfl
@[simp] theorem State.setResult_status (v : Nat) : (s.setResult v).status = s.status := rfl
@[simp] theorem State.setResult_cprALat (v : Nat) : (s.setResult v).cprALat = s.cprALat := rfl
@[simp] theorem State.setResult_cprALon (v : Nat) : (s.setResult v).cprALon = s.cprALon := rfl
@[simp] theorem State.setResult_cprBLat (v : Nat) : (s.setResult v).cprBLat = s.cprBLat := rfl
@[simp] theorem State.setResult_cprBLon (v : Nat) : (s.setResult v).cprBLon = s.cprBLon := rfl
@[simp] theorem State.setResult_cprPar (v : Nat) : (s.setResult v).cprPar = s.cprPar := rfl
@[simp] theorem State.setResult_cprOut (v : Nat) : (s.setResult v).cprOut = s.cprOut := rfl
@[simp] theorem State.setResult_frameMax (v : Nat) : (s.setResult v).frameMax = s.frameMax := rfl
@[simp] theorem State.setResult_events (v : Nat) : (s.setResult v).events = s.events := rfl
@[simp] theorem State.setResult_reads (v : Nat) : (s.setResult v).reads = s.reads := rfl
@[simp] theorem State.setResult_draws (v : Nat) : (s.setResult v).draws = s.draws := rfl

@[simp] theorem State.setCursor_fb (off : Nat) : (s.setCursor off).fb = s.fb := rfl
@[simp] theorem State.setCursor_flen (off : Nat) : (s.setCursor off).flen = s.flen := rfl
@[simp] theorem State.setCursor_cursor (off : Nat) : (s.setCursor off).cursor = BitVec.ofNat 11 off := rfl
@[simp] theorem State.setCursor_arg0 (off : Nat) : (s.setCursor off).arg0 = s.arg0 := rfl
@[simp] theorem State.setCursor_arg1 (off : Nat) : (s.setCursor off).arg1 = s.arg1 := rfl
@[simp] theorem State.setCursor_result (off : Nat) : (s.setCursor off).result = s.result := rfl
@[simp] theorem State.setCursor_crcRem (off : Nat) : (s.setCursor off).crcRem = s.crcRem := rfl
@[simp] theorem State.setCursor_status (off : Nat) : (s.setCursor off).status = s.status := rfl
@[simp] theorem State.setCursor_cprALat (off : Nat) : (s.setCursor off).cprALat = s.cprALat := rfl
@[simp] theorem State.setCursor_cprALon (off : Nat) : (s.setCursor off).cprALon = s.cprALon := rfl
@[simp] theorem State.setCursor_cprBLat (off : Nat) : (s.setCursor off).cprBLat = s.cprBLat := rfl
@[simp] theorem State.setCursor_cprBLon (off : Nat) : (s.setCursor off).cprBLon = s.cprBLon := rfl
@[simp] theorem State.setCursor_cprPar (off : Nat) : (s.setCursor off).cprPar = s.cprPar := rfl
@[simp] theorem State.setCursor_cprOut (off : Nat) : (s.setCursor off).cprOut = s.cprOut := rfl
@[simp] theorem State.setCursor_frameMax (off : Nat) : (s.setCursor off).frameMax = s.frameMax := rfl
@[simp] theorem State.setCursor_events (off : Nat) : (s.setCursor off).events = s.events := rfl
@[simp] theorem State.setCursor_reads (off : Nat) : (s.setCursor off).reads = s.reads := rfl
@[simp] theorem State.setCursor_draws (off : Nat) : (s.setCursor off).draws = s.draws := rfl

@[simp] theorem State.succeed_fb : s.succeed.fb = s.fb := rfl
@[simp] theorem State.succeed_flen : s.succeed.flen = s.flen := rfl
@[simp] theorem State.succeed_cursor : s.succeed.cursor = s.cursor := rfl
@[simp] theorem State.succeed_arg0 : s.succeed.arg0 = s.arg0 := rfl
@[simp] theorem State.succeed_arg1 : s.succeed.arg1 = s.arg1 := rfl
@[simp] theorem State.succeed_result : s.succeed.result = s.result := rfl
@[simp] theorem State.succeed_crcRem : s.succeed.crcRem = s.crcRem := rfl
@[simp] theorem State.succeed_status : s.succeed.status = s.status.succeeded := rfl
@[simp] theorem State.succeed_cprALat : s.succeed.cprALat = s.cprALat := rfl
@[simp] theorem State.succeed_cprALon : s.succeed.cprALon = s.cprALon := rfl
@[simp] theorem State.succeed_cprBLat : s.succeed.cprBLat = s.cprBLat := rfl
@[simp] theorem State.succeed_cprBLon : s.succeed.cprBLon = s.cprBLon := rfl
@[simp] theorem State.succeed_cprPar : s.succeed.cprPar = s.cprPar := rfl
@[simp] theorem State.succeed_cprOut : s.succeed.cprOut = s.cprOut := rfl
@[simp] theorem State.succeed_frameMax : s.succeed.frameMax = s.frameMax := rfl
@[simp] theorem State.succeed_events : s.succeed.events = s.events := rfl
@[simp] theorem State.succeed_reads : s.succeed.reads = s.reads := rfl
@[simp] theorem State.succeed_draws : s.succeed.draws = s.draws := rfl

@[simp] theorem State.fail_fb (c : ErrorCode) : (s.fail c).fb = s.fb := rfl
@[simp] theorem State.fail_flen (c : ErrorCode) : (s.fail c).flen = s.flen := rfl
@[simp] theorem State.fail_cursor (c : ErrorCode) : (s.fail c).cursor = s.cursor := rfl
@[simp] theorem State.fail_arg0 (c : ErrorCode) : (s.fail c).arg0 = s.arg0 := rfl
@[simp] theorem State.fail_arg1 (c : ErrorCode) : (s.fail c).arg1 = s.arg1 := rfl
@[simp] theorem State.fail_result (c : ErrorCode) : (s.fail c).result = s.result := rfl
@[simp] theorem State.fail_crcRem (c : ErrorCode) : (s.fail c).crcRem = s.crcRem := rfl
@[simp] theorem State.fail_status (c : ErrorCode) : (s.fail c).status = s.status.raised c := rfl
@[simp] theorem State.fail_cprALat (c : ErrorCode) : (s.fail c).cprALat = s.cprALat := rfl
@[simp] theorem State.fail_cprALon (c : ErrorCode) : (s.fail c).cprALon = s.cprALon := rfl
@[simp] theorem State.fail_cprBLat (c : ErrorCode) : (s.fail c).cprBLat = s.cprBLat := rfl
@[simp] theorem State.fail_cprBLon (c : ErrorCode) : (s.fail c).cprBLon = s.cprBLon := rfl
@[simp] theorem State.fail_cprPar (c : ErrorCode) : (s.fail c).cprPar = s.cprPar := rfl
@[simp] theorem State.fail_cprOut (c : ErrorCode) : (s.fail c).cprOut = s.cprOut := rfl
@[simp] theorem State.fail_frameMax (c : ErrorCode) : (s.fail c).frameMax = s.frameMax := rfl
@[simp] theorem State.fail_events (c : ErrorCode) : (s.fail c).events = s.events := rfl
@[simp] theorem State.fail_reads (c : ErrorCode) : (s.fail c).reads = s.reads := rfl
@[simp] theorem State.fail_draws (c : ErrorCode) : (s.fail c).draws = s.draws := rfl

@[simp] theorem State.clearErrors_fb : s.clearErrors.fb = s.fb := rfl
@[simp] theorem State.clearErrors_flen : s.clearErrors.flen = s.flen := rfl
@[simp] theorem State.clearErrors_cursor : s.clearErrors.cursor = s.cursor := rfl
@[simp] theorem State.clearErrors_arg0 : s.clearErrors.arg0 = s.arg0 := rfl
@[simp] theorem State.clearErrors_arg1 : s.clearErrors.arg1 = s.arg1 := rfl
@[simp] theorem State.clearErrors_result : s.clearErrors.result = s.result := rfl
@[simp] theorem State.clearErrors_crcRem : s.clearErrors.crcRem = s.crcRem := rfl
@[simp] theorem State.clearErrors_status : s.clearErrors.status = s.status.begun := rfl
@[simp] theorem State.clearErrors_cprALat : s.clearErrors.cprALat = s.cprALat := rfl
@[simp] theorem State.clearErrors_cprALon : s.clearErrors.cprALon = s.cprALon := rfl
@[simp] theorem State.clearErrors_cprBLat : s.clearErrors.cprBLat = s.cprBLat := rfl
@[simp] theorem State.clearErrors_cprBLon : s.clearErrors.cprBLon = s.cprBLon := rfl
@[simp] theorem State.clearErrors_cprPar : s.clearErrors.cprPar = s.cprPar := rfl
@[simp] theorem State.clearErrors_cprOut : s.clearErrors.cprOut = s.cprOut := rfl
@[simp] theorem State.clearErrors_frameMax : s.clearErrors.frameMax = s.frameMax := rfl
@[simp] theorem State.clearErrors_events : s.clearErrors.events = s.events := rfl
@[simp] theorem State.clearErrors_reads : s.clearErrors.reads = s.reads := rfl
@[simp] theorem State.clearErrors_draws : s.clearErrors.draws = s.draws := rfl

@[simp] theorem State.setRemainder_fb (rem : Rem) : (s.setRemainder rem).fb = s.fb := rfl
@[simp] theorem State.setRemainder_flen (rem : Rem) : (s.setRemainder rem).flen = s.flen := rfl
@[simp] theorem State.setRemainder_cursor (rem : Rem) : (s.setRemainder rem).cursor = s.cursor := rfl
@[simp] theorem State.setRemainder_arg0 (rem : Rem) : (s.setRemainder rem).arg0 = s.arg0 := rfl
@[simp] theorem State.setRemainder_arg1 (rem : Rem) : (s.setRemainder rem).arg1 = s.arg1 := rfl
@[simp] theorem State.setRemainder_result (rem : Rem) : (s.setRemainder rem).result = s.result := rfl
@[simp] theorem State.setRemainder_crcRem (rem : Rem) : (s.setRemainder rem).crcRem = rem := rfl
@[simp] theorem State.setRemainder_status (rem : Rem) : (s.setRemainder rem).status = s.status.withCrcz rem := rfl
@[simp] theorem State.setRemainder_cprALat (rem : Rem) : (s.setRemainder rem).cprALat = s.cprALat := rfl
@[simp] theorem State.setRemainder_cprALon (rem : Rem) : (s.setRemainder rem).cprALon = s.cprALon := rfl
@[simp] theorem State.setRemainder_cprBLat (rem : Rem) : (s.setRemainder rem).cprBLat = s.cprBLat := rfl
@[simp] theorem State.setRemainder_cprBLon (rem : Rem) : (s.setRemainder rem).cprBLon = s.cprBLon := rfl
@[simp] theorem State.setRemainder_cprPar (rem : Rem) : (s.setRemainder rem).cprPar = s.cprPar := rfl
@[simp] theorem State.setRemainder_cprOut (rem : Rem) : (s.setRemainder rem).cprOut = s.cprOut := rfl
@[simp] theorem State.setRemainder_frameMax (rem : Rem) : (s.setRemainder rem).frameMax = s.frameMax := rfl
@[simp] theorem State.setRemainder_events (rem : Rem) : (s.setRemainder rem).events = s.events := rfl
@[simp] theorem State.setRemainder_reads (rem : Rem) : (s.setRemainder rem).reads = s.reads := rfl
@[simp] theorem State.setRemainder_draws (rem : Rem) : (s.setRemainder rem).draws = s.draws := rfl

@[simp] theorem State.setPosition_fb (o : Option CprOutputs) : (s.setPosition o).fb = s.fb := rfl
@[simp] theorem State.setPosition_flen (o : Option CprOutputs) : (s.setPosition o).flen = s.flen := rfl
@[simp] theorem State.setPosition_cursor (o : Option CprOutputs) : (s.setPosition o).cursor = s.cursor := rfl
@[simp] theorem State.setPosition_arg0 (o : Option CprOutputs) : (s.setPosition o).arg0 = s.arg0 := rfl
@[simp] theorem State.setPosition_arg1 (o : Option CprOutputs) : (s.setPosition o).arg1 = s.arg1 := rfl
@[simp] theorem State.setPosition_result (o : Option CprOutputs) : (s.setPosition o).result = s.result := rfl
@[simp] theorem State.setPosition_crcRem (o : Option CprOutputs) : (s.setPosition o).crcRem = s.crcRem := rfl
@[simp] theorem State.setPosition_status (o : Option CprOutputs) : (s.setPosition o).status = s.status.withCprValid o.isSome := rfl
@[simp] theorem State.setPosition_cprALat (o : Option CprOutputs) : (s.setPosition o).cprALat = s.cprALat := rfl
@[simp] theorem State.setPosition_cprALon (o : Option CprOutputs) : (s.setPosition o).cprALon = s.cprALon := rfl
@[simp] theorem State.setPosition_cprBLat (o : Option CprOutputs) : (s.setPosition o).cprBLat = s.cprBLat := rfl
@[simp] theorem State.setPosition_cprBLon (o : Option CprOutputs) : (s.setPosition o).cprBLon = s.cprBLon := rfl
@[simp] theorem State.setPosition_cprPar (o : Option CprOutputs) : (s.setPosition o).cprPar = s.cprPar := rfl
@[simp] theorem State.setPosition_cprOut (o : Option CprOutputs) : (s.setPosition o).cprOut = o := rfl
@[simp] theorem State.setPosition_frameMax (o : Option CprOutputs) : (s.setPosition o).frameMax = s.frameMax := rfl
@[simp] theorem State.setPosition_events (o : Option CprOutputs) : (s.setPosition o).events = s.events := rfl
@[simp] theorem State.setPosition_reads (o : Option CprOutputs) : (s.setPosition o).reads = s.reads := rfl
@[simp] theorem State.setPosition_draws (o : Option CprOutputs) : (s.setPosition o).draws = s.draws := rfl

@[simp] theorem State.setEvents_fb (es : List Event) : (s.setEvents es).fb = s.fb := rfl
@[simp] theorem State.setEvents_flen (es : List Event) : (s.setEvents es).flen = s.flen := rfl
@[simp] theorem State.setEvents_cursor (es : List Event) : (s.setEvents es).cursor = s.cursor := rfl
@[simp] theorem State.setEvents_arg0 (es : List Event) : (s.setEvents es).arg0 = s.arg0 := rfl
@[simp] theorem State.setEvents_arg1 (es : List Event) : (s.setEvents es).arg1 = s.arg1 := rfl
@[simp] theorem State.setEvents_result (es : List Event) : (s.setEvents es).result = s.result := rfl
@[simp] theorem State.setEvents_crcRem (es : List Event) : (s.setEvents es).crcRem = s.crcRem := rfl
@[simp] theorem State.setEvents_status (es : List Event) : (s.setEvents es).status = s.status := rfl
@[simp] theorem State.setEvents_cprALat (es : List Event) : (s.setEvents es).cprALat = s.cprALat := rfl
@[simp] theorem State.setEvents_cprALon (es : List Event) : (s.setEvents es).cprALon = s.cprALon := rfl
@[simp] theorem State.setEvents_cprBLat (es : List Event) : (s.setEvents es).cprBLat = s.cprBLat := rfl
@[simp] theorem State.setEvents_cprBLon (es : List Event) : (s.setEvents es).cprBLon = s.cprBLon := rfl
@[simp] theorem State.setEvents_cprPar (es : List Event) : (s.setEvents es).cprPar = s.cprPar := rfl
@[simp] theorem State.setEvents_cprOut (es : List Event) : (s.setEvents es).cprOut = s.cprOut := rfl
@[simp] theorem State.setEvents_frameMax (es : List Event) : (s.setEvents es).frameMax = s.frameMax := rfl
@[simp] theorem State.setEvents_events (es : List Event) : (s.setEvents es).events = es := rfl
@[simp] theorem State.setEvents_reads (es : List Event) : (s.setEvents es).reads = s.reads := rfl
@[simp] theorem State.setEvents_draws (es : List Event) : (s.setEvents es).draws = s.draws := rfl

@[simp] theorem State.logRead_fb (v : Word) : (s.logRead v).fb = s.fb := rfl
@[simp] theorem State.logRead_flen (v : Word) : (s.logRead v).flen = s.flen := rfl
@[simp] theorem State.logRead_cursor (v : Word) : (s.logRead v).cursor = s.cursor := rfl
@[simp] theorem State.logRead_arg0 (v : Word) : (s.logRead v).arg0 = s.arg0 := rfl
@[simp] theorem State.logRead_arg1 (v : Word) : (s.logRead v).arg1 = s.arg1 := rfl
@[simp] theorem State.logRead_result (v : Word) : (s.logRead v).result = s.result := rfl
@[simp] theorem State.logRead_crcRem (v : Word) : (s.logRead v).crcRem = s.crcRem := rfl
@[simp] theorem State.logRead_status (v : Word) : (s.logRead v).status = s.status := rfl
@[simp] theorem State.logRead_cprALat (v : Word) : (s.logRead v).cprALat = s.cprALat := rfl
@[simp] theorem State.logRead_cprALon (v : Word) : (s.logRead v).cprALon = s.cprALon := rfl
@[simp] theorem State.logRead_cprBLat (v : Word) : (s.logRead v).cprBLat = s.cprBLat := rfl
@[simp] theorem State.logRead_cprBLon (v : Word) : (s.logRead v).cprBLon = s.cprBLon := rfl
@[simp] theorem State.logRead_cprPar (v : Word) : (s.logRead v).cprPar = s.cprPar := rfl
@[simp] theorem State.logRead_cprOut (v : Word) : (s.logRead v).cprOut = s.cprOut := rfl
@[simp] theorem State.logRead_frameMax (v : Word) : (s.logRead v).frameMax = s.frameMax := rfl
@[simp] theorem State.logRead_events (v : Word) : (s.logRead v).events = s.events := rfl
@[simp] theorem State.logRead_reads (v : Word) : (s.logRead v).reads = s.reads ++ [v] := rfl
@[simp] theorem State.logRead_draws (v : Word) : (s.logRead v).draws = s.draws + 1 := rfl

@[simp] theorem resetBlock_fb : (resetBlock s).fb = State.reset.fb := rfl
@[simp] theorem resetBlock_flen : (resetBlock s).flen = State.reset.flen := rfl
@[simp] theorem resetBlock_cursor : (resetBlock s).cursor = State.reset.cursor := rfl
@[simp] theorem resetBlock_arg0 : (resetBlock s).arg0 = State.reset.arg0 := rfl
@[simp] theorem resetBlock_arg1 : (resetBlock s).arg1 = State.reset.arg1 := rfl
@[simp] theorem resetBlock_result : (resetBlock s).result = State.reset.result := rfl
@[simp] theorem resetBlock_crcRem : (resetBlock s).crcRem = State.reset.crcRem := rfl
@[simp] theorem resetBlock_status : (resetBlock s).status = State.reset.status := rfl
@[simp] theorem resetBlock_cprALat : (resetBlock s).cprALat = State.reset.cprALat := rfl
@[simp] theorem resetBlock_cprALon : (resetBlock s).cprALon = State.reset.cprALon := rfl
@[simp] theorem resetBlock_cprBLat : (resetBlock s).cprBLat = State.reset.cprBLat := rfl
@[simp] theorem resetBlock_cprBLon : (resetBlock s).cprBLon = State.reset.cprBLon := rfl
@[simp] theorem resetBlock_cprPar : (resetBlock s).cprPar = State.reset.cprPar := rfl
@[simp] theorem resetBlock_cprOut : (resetBlock s).cprOut = State.reset.cprOut := rfl
@[simp] theorem resetBlock_frameMax : (resetBlock s).frameMax = s.frameMax := rfl
@[simp] theorem resetBlock_events : (resetBlock s).events = s.events := rfl
@[simp] theorem resetBlock_reads : (resetBlock s).reads = s.reads := rfl
@[simp] theorem resetBlock_draws : (resetBlock s).draws = s.draws := rfl

@[simp] theorem Status.raised_err (c : ErrorCode) : (st.raised c).err = c := rfl
@[simp] theorem Status.raised_anyErr (c : ErrorCode) : (st.raised c).anyErr = true := rfl
@[simp] theorem Status.raised_crcz (c : ErrorCode) : (st.raised c).crcz = st.crcz := rfl
@[simp] theorem Status.raised_cprValid (c : ErrorCode) : (st.raised c).cprValid = st.cprValid := rfl

@[simp] theorem Status.succeeded_err : st.succeeded.err = .none := rfl
@[simp] theorem Status.succeeded_anyErr : st.succeeded.anyErr = st.anyErr := rfl
@[simp] theorem Status.succeeded_crcz : st.succeeded.crcz = st.crcz := rfl
@[simp] theorem Status.succeeded_cprValid : st.succeeded.cprValid = st.cprValid := rfl

@[simp] theorem Status.begun_err : st.begun.err = .none := rfl
@[simp] theorem Status.begun_anyErr : st.begun.anyErr = false := rfl
@[simp] theorem Status.begun_crcz : st.begun.crcz = st.crcz := rfl
@[simp] theorem Status.begun_cprValid : st.begun.cprValid = st.cprValid := rfl

@[simp] theorem Status.withCrcz_err (rem : Rem) : (st.withCrcz rem).err = st.err := rfl
@[simp] theorem Status.withCrcz_anyErr (rem : Rem) : (st.withCrcz rem).anyErr = st.anyErr := rfl
@[simp] theorem Status.withCrcz_crcz (rem : Rem) : (st.withCrcz rem).crcz = decide (rem = 0) := rfl
@[simp] theorem Status.withCrcz_cprValid (rem : Rem) : (st.withCrcz rem).cprValid = st.cprValid := rfl

@[simp] theorem Status.withCprValid_err (v : Bool) : (st.withCprValid v).err = st.err := rfl
@[simp] theorem Status.withCprValid_anyErr (v : Bool) : (st.withCprValid v).anyErr = st.anyErr := rfl
@[simp] theorem Status.withCprValid_crcz (v : Bool) : (st.withCprValid v).crcz = st.crcz := rfl
@[simp] theorem Status.withCprValid_cprValid (v : Bool) : (st.withCprValid v).cprValid = v := rfl

end Sys2Proof.Machine
end

