-- ==== Sys2Proof/Laws/Exec.lean ====
section
/-! SUPPORT. What each shared operation, each command and one step can do, said once. -/

namespace Sys2Proof.Machine

/-- Everything a command can answer through its operand. -/
theorem withOperand_next {α : Type} (o : Operand α) (s t : State) (k : α → Outcome)
    (h : withOperand o s k = .next t) :
    (∃ c, o = .raises c ∧ t = s.fail c) ∨ ∃ v, o = .value v ∧ k v = .next t := by
  cases o with
  | raises c => exact .inl ⟨c, rfl, by simpa [withOperand, raise] using h.symm⟩
  | unwritten i => cases h
  | value v => exact .inr ⟨v, rfl, h⟩

theorem Operand.ofRead_value_iff {α : Type} (r : Except Nat α) (v : α) : Operand.ofRead r = .value v ↔ r = .ok v := by
  cases r <;> simp [Operand.ofRead]

theorem Operand.ofRead_unwritten_iff {α : Type} (r : Except Nat α) (i : Nat) :
    Operand.ofRead r = .unwritten i ↔ r = .error i := by
  cases r <;> simp [Operand.ofRead]

theorem Operand.ofRead_ne_raises {α : Type} (r : Except Nat α) (c : ErrorCode) : Operand.ofRead r ≠ .raises c := by
  cases r <;> simp [Operand.ofRead]

theorem fetchField_illegalWidth (n : BitVec 6) (s : State) (h : ¬LegalWidth n) :
    fetchField n s = .raises .illegalWidth := by
  have : n.toNat < 1 ∨ 32 < n.toNat := by simp only [LegalWidth] at h; omega
  simp only [fetchField, this, if_true]

theorem fetchField_badLength (n : BitVec 6) (s : State) (h : LegalWidth n) (hl : s.frameMax < s.flen.toNat) :
    fetchField n s = .raises .badLength := by
  have : ¬(n.toNat < 1 ∨ 32 < n.toNat) := by simp only [LegalWidth] at h; omega
  simp only [fetchField, this, hl, if_true, if_false]

theorem fetchField_truncated (n : BitVec 6) (s : State) (h : LegalWidth n) (hl : s.flen.toNat ≤ s.frameMax)
    (hb : 8 * s.flen.toNat < s.cursor.toNat + n.toNat) : fetchField n s = .raises .truncated := by
  have h₁ : ¬(n.toNat < 1 ∨ 32 < n.toNat) := by simp only [LegalWidth] at h; omega
  have h₂ : ¬s.frameMax < s.flen.toNat := by omega
  simp only [fetchField, h₁, h₂, hb, if_true, if_false]

theorem fetchField_read (n : BitVec 6) (s : State) (h : LegalWidth n) (hl : s.flen.toNat ≤ s.frameMax)
    (hb : s.cursor.toNat + n.toNat ≤ 8 * s.flen.toNat) :
    fetchField n s = Operand.ofRead (bits s.fb s.cursor.toNat n.toNat) := by
  have h₁ : ¬(n.toNat < 1 ∨ 32 < n.toNat) := by simp only [LegalWidth] at h; omega
  have h₂ : ¬s.frameMax < s.flen.toNat := by omega
  have h₃ : ¬8 * s.flen.toNat < s.cursor.toNat + n.toNat := by omega
  simp only [fetchField, h₁, h₂, h₃, if_false]

/-- Everything `fetchField` can answer, with the checks that led there. -/
theorem fetchField_cases (n : BitVec 6) (s : State) :
    (fetchField n s = .raises .illegalWidth ∧ ¬LegalWidth n) ∨
    (fetchField n s = .raises .badLength ∧ LegalWidth n ∧ s.frameMax < s.flen.toNat) ∨
    (fetchField n s = .raises .truncated ∧ LegalWidth n ∧ s.flen.toNat ≤ s.frameMax ∧
      8 * s.flen.toNat < s.cursor.toNat + n.toNat) ∨
    (fetchField n s = Operand.ofRead (bits s.fb s.cursor.toNat n.toNat) ∧ LegalWidth n ∧ s.flen.toNat ≤ s.frameMax ∧
      s.cursor.toNat + n.toNat ≤ 8 * s.flen.toNat) := by
  by_cases h : LegalWidth n
  · by_cases hl : s.frameMax < s.flen.toNat
    · exact .inr (.inl ⟨fetchField_badLength n s h hl, h, hl⟩)
    · have hl' : s.flen.toNat ≤ s.frameMax := by omega
      by_cases hb : 8 * s.flen.toNat < s.cursor.toNat + n.toNat
      · exact .inr (.inr (.inl ⟨fetchField_truncated n s h hl' hb, h, hl', hb⟩))
      · exact .inr (.inr (.inr ⟨fetchField_read n s h hl' (by omega), h, hl', by omega⟩))
  · exact .inl ⟨fetchField_illegalWidth n s h, h⟩

/-- What a field that was read is. -/
theorem fetchField_value (n : BitVec 6) (s : State) (v : Nat) (h : fetchField n s = .value v) :
    LegalWidth n ∧ s.flen.toNat ≤ s.frameMax ∧ s.cursor.toNat + n.toNat ≤ 8 * s.flen.toNat ∧
      bits s.fb s.cursor.toNat n.toNat = .ok v := by
  rcases fetchField_cases n s with ⟨he, -⟩ | ⟨he, -⟩ | ⟨he, -⟩ | ⟨he, h₁, h₂, h₃⟩
  · rw [he] at h; cases h
  · rw [he] at h; cases h
  · rw [he] at h; cases h
  · rw [he, Operand.ofRead_value_iff] at h
    exact ⟨h₁, h₂, h₃, h⟩

/-- Where a field read meets an unwritten byte. -/
theorem fetchField_unwritten (n : BitVec 6) (s : State) (i : Nat) (h : fetchField n s = .unwritten i) :
    s.fb.read i = none ∧ i < s.flen.toNat ∧ s.flen.toNat ≤ s.frameMax := by
  rcases fetchField_cases n s with ⟨he, -⟩ | ⟨he, -⟩ | ⟨he, -⟩ | ⟨he, h₁, h₂, h₃⟩
  · rw [he] at h; cases h
  · rw [he] at h; cases h
  · rw [he] at h; cases h
  · rw [he, Operand.ofRead_unwritten_iff] at h
    obtain ⟨hn, k, hk, hi⟩ := bits_error _ _ _ _ h
    exact ⟨hn, by omega, h₂⟩

theorem fetchFrame_cases (s : State) :
    (fetchFrame s = .raises .badLength ∧ s.frameMax < s.flen.toNat) ∨
    (fetchFrame s = .raises .crcInputTooShort ∧ s.flen.toNat ≤ s.frameMax ∧ s.flen.toNat < 3) ∨
    (fetchFrame s = Operand.ofRead (frameBytes s.fb 0 s.flen.toNat) ∧ s.flen.toNat ≤ s.frameMax ∧
      3 ≤ s.flen.toNat) := by
  unfold fetchFrame
  by_cases hl : s.frameMax < s.flen.toNat
  · exact .inl ⟨if_pos hl, hl⟩
  · by_cases h3 : s.flen.toNat < 3
    · exact .inr (.inl ⟨by rw [if_neg hl, if_pos h3], by omega, h3⟩)
    · exact .inr (.inr ⟨by rw [if_neg hl, if_neg h3], by omega, by omega⟩)

theorem fetchFrame_unwritten (s : State) (i : Nat) (h : fetchFrame s = .unwritten i) :
    s.fb.read i = none ∧ i < s.flen.toNat ∧ s.flen.toNat ≤ s.frameMax := by
  rcases fetchFrame_cases s with ⟨he, -⟩ | ⟨he, -⟩ | ⟨he, h₁, -⟩
  · rw [he] at h; cases h
  · rw [he] at h; cases h
  · rw [he, Operand.ofRead_unwritten_iff] at h
    obtain ⟨hn, -, hi⟩ := frameBytes_error _ _ _ _ h
    exact ⟨hn, by omega, h₁⟩

/-- The state in which a command that consumes its field leaves the block. -/
abbrev consumed (n : BitVec 6) (v : Nat) (s : State) : State :=
  ((s.setResult v).setCursor (s.cursor.toNat + n.toNat)).succeed

/-- Everything TAKE can do when it answers a next state. -/
theorem execTake_next (n : BitVec 6) (s t : State) (h : execTake n s = .next t) :
    (∃ c, fetchField n s = .raises c ∧ t = s.fail c) ∨
    ∃ v, fetchField n s = .value v ∧ t = consumed n v s := by
  rcases withOperand_next _ _ _ _ h with h | ⟨v, hv, h⟩
  · exact .inl h
  · exact .inr ⟨v, hv, by simpa [consume] using h.symm⟩

/-- Everything PEEK can do when it answers a next state. -/
theorem execPeek_next (n : BitVec 6) (s t : State) (h : execPeek n s = .next t) :
    (∃ c, fetchField n s = .raises c ∧ t = s.fail c) ∨
    ∃ v, fetchField n s = .value v ∧ t = (s.setResult v).succeed := by
  rcases withOperand_next _ _ _ _ h with h | ⟨v, hv, h⟩
  · exact .inl h
  · exact .inr ⟨v, hv, by simpa using h.symm⟩

/-- Everything TAG can do when it answers a next state. -/
theorem execTag_next (n : BitVec 6) (s t : State) (h : execTag n s = .next t) :
    (∃ c, fetchField n s = .raises c ∧ t = s.fail c) ∨
    (∃ v, fetchField n s = .value v ∧ v ≠ s.arg0.toNat ∧ t = s.fail .unexpectedValue) ∨
    ∃ v, fetchField n s = .value v ∧ v = s.arg0.toNat ∧ t = consumed n v s := by
  rcases withOperand_next _ _ _ _ h with h | ⟨v, hv, h⟩
  · exact .inl h
  · by_cases he : v = s.arg0.toNat
    · rw [if_pos he] at h
      exact .inr (.inr ⟨v, hv, he, by simpa [consume] using h.symm⟩)
    · rw [if_neg he] at h
      exact .inr (.inl ⟨v, hv, he, by simpa [raise] using h.symm⟩)

/-- Everything VERIFY can do when it answers a next state. -/
theorem execVerify_next (n : BitVec 6) (s t : State) (h : execVerify n s = .next t) :
    (∃ c, fetchField n s = .raises c ∧ t = s.fail c) ∨
    (∃ v, fetchField n s = .value v ∧ ¬(s.arg0.toNat ≤ v ∧ v ≤ s.arg1.toNat) ∧ t = s.fail .constraintViolation) ∨
    ∃ v, fetchField n s = .value v ∧ (s.arg0.toNat ≤ v ∧ v ≤ s.arg1.toNat) ∧ t = consumed n v s := by
  rcases withOperand_next _ _ _ _ h with h | ⟨v, hv, h⟩
  · exact .inl h
  · by_cases he : s.arg0.toNat ≤ v ∧ v ≤ s.arg1.toNat
    · rw [if_pos he] at h
      exact .inr (.inr ⟨v, hv, he, by simpa [consume] using h.symm⟩)
    · rw [if_neg he] at h
      exact .inr (.inl ⟨v, hv, he, by simpa [raise] using h.symm⟩)

/-- Everything CRC_COMPUTE can do when it answers a next state. -/
theorem execCrcCompute_next (s t : State) (h : execCrcCompute s = .next t) :
    (∃ c, fetchFrame s = .raises c ∧ t = s.fail c) ∨
    ∃ bytes, fetchFrame s = .value bytes ∧ t = (s.setRemainder (crc24 bytes)).succeed := by
  rcases withOperand_next _ _ _ _ h with h | ⟨v, hv, h⟩
  · exact .inl h
  · exact .inr ⟨v, hv, by simpa using h.symm⟩

/-- The codes the operand fetches raise are errors. -/
theorem fetchField_raises_ne_none (n : BitVec 6) (s : State) (c : ErrorCode) (h : fetchField n s = .raises c) :
    c ≠ .none := by
  rcases fetchField_cases n s with ⟨he, -⟩ | ⟨he, -⟩ | ⟨he, -⟩ | ⟨he, -⟩ <;> rw [he] at h
  · cases h; decide
  · cases h; decide
  · cases h; decide
  · exact absurd h (Operand.ofRead_ne_raises _ _)

theorem fetchFrame_raises_ne_none (s : State) (c : ErrorCode) (h : fetchFrame s = .raises c) : c ≠ .none := by
  rcases fetchFrame_cases s with ⟨he, -⟩ | ⟨he, -⟩ | ⟨he, -⟩ <;> rw [he] at h
  · cases h; decide
  · cases h; decide
  · exact absurd h (Operand.ofRead_ne_raises _ _)

/-- Everything a command can do when it answers a next state. -/
theorem exec_next (i : Instr) (s t : State) (h : exec i s = .next t) :
    (∃ c, c ≠ .none ∧ t = s.fail c) ∨
    (∃ n v, (i = .take n ∨ i = .tag n ∨ i = .verify n) ∧ fetchField n s = .value v ∧ t = consumed n v s) ∨
    (∃ n v, i = .peek n ∧ fetchField n s = .value v ∧ t = (s.setResult v).succeed) ∨
    (i = .beginFrame ∧ t = (s.setCursor 0).clearErrors) ∨
    (i = .crcCompute ∧ ∃ bytes, fetchFrame s = .value bytes ∧ t = (s.setRemainder (crc24 bytes)).succeed) ∨
    (i = .cprResolve ∧ t = (s.setPosition ((resolve (slotA s) (slotB s)).map Position.outputs)).succeed) := by
  cases i with
  | take n =>
    rcases execTake_next n s t h with ⟨c, hc, ht⟩ | ⟨v, hv, ht⟩
    · exact .inl ⟨c, fetchField_raises_ne_none n s c hc, ht⟩
    · exact .inr (.inl ⟨n, v, .inl rfl, hv, ht⟩)
  | peek n =>
    rcases execPeek_next n s t h with ⟨c, hc, ht⟩ | ⟨v, hv, ht⟩
    · exact .inl ⟨c, fetchField_raises_ne_none n s c hc, ht⟩
    · exact .inr (.inr (.inl ⟨n, v, rfl, hv, ht⟩))
  | tag n =>
    rcases execTag_next n s t h with ⟨c, hc, ht⟩ | ⟨v, -, -, ht⟩ | ⟨v, hv, -, ht⟩
    · exact .inl ⟨c, fetchField_raises_ne_none n s c hc, ht⟩
    · exact .inl ⟨_, by decide, ht⟩
    · exact .inr (.inl ⟨n, v, .inr (.inl rfl), hv, ht⟩)
  | verify n =>
    rcases execVerify_next n s t h with ⟨c, hc, ht⟩ | ⟨v, -, -, ht⟩ | ⟨v, hv, -, ht⟩
    · exact .inl ⟨c, fetchField_raises_ne_none n s c hc, ht⟩
    · exact .inl ⟨_, by decide, ht⟩
    · exact .inr (.inl ⟨n, v, .inr (.inr rfl), hv, ht⟩)
  | beginFrame => exact .inr (.inr (.inr (.inl ⟨rfl, by simpa [exec, execBegin] using h.symm⟩)))
  | crcCompute =>
    rcases execCrcCompute_next s t h with ⟨c, hc, ht⟩ | ⟨v, hv, ht⟩
    · exact .inl ⟨c, fetchFrame_raises_ne_none s c hc, ht⟩
    · exact .inr (.inr (.inr (.inr (.inl ⟨rfl, v, hv, ht⟩))))
  | cprResolve => exact .inr (.inr (.inr (.inr (.inr ⟨rfl, by simpa [exec, execCprResolve] using h.symm⟩))))

/-- A command stops only on an unwritten byte of a frame that FB can hold. -/
theorem exec_fault (i : Instr) (s : State) (f : Fault) (h : exec i s = .fault f) :
    ∃ k, f = .unwrittenByte k ∧ s.fb.read k = none ∧ k < s.flen.toNat ∧ s.flen.toNat ≤ s.frameMax := by
  have field : ∀ n k, (∀ v, ∃ t, k v = Host.Outcome.next t) → withOperand (fetchField n s) s k = .fault f →
      ∃ k, f = .unwrittenByte k ∧ s.fb.read k = none ∧ k < s.flen.toNat ∧ s.flen.toNat ≤ s.frameMax := by
    intro n k hk hf
    cases ho : fetchField n s with
    | raises c => rw [ho] at hf; cases hf
    | unwritten i => rw [ho] at hf; cases hf; exact ⟨i, rfl, fetchField_unwritten n s i ho⟩
    | value v =>
      rw [ho] at hf
      obtain ⟨t, ht⟩ := hk v
      simp only [withOperand, ht] at hf
      cases hf
  cases i with
  | take n => exact field n _ (fun v => ⟨_, rfl⟩) h
  | peek n => exact field n _ (fun v => ⟨_, rfl⟩) h
  | tag n => exact field n _ (fun v => by simp only [consume, raise]; split <;> exact ⟨_, rfl⟩) h
  | verify n => exact field n _ (fun v => by simp only [consume, raise]; split <;> exact ⟨_, rfl⟩) h
  | beginFrame => cases h
  | crcCompute =>
    simp only [exec, execCrcCompute] at h
    cases ho : fetchFrame s with
    | raises c => rw [ho] at h; cases h
    | unwritten i => rw [ho] at h; cases h; exact ⟨i, rfl, fetchFrame_unwritten s i ho⟩
    | value v => rw [ho] at h; cases h
  | cprResolve => cases h

/-- No command is refused. -/
theorem exec_ne_refused (i : Instr) (s : State) (r : Refusal) : exec i s ≠ .refused r := by
  have field : ∀ {α : Type} (o : Operand α) (k : α → Outcome), (∀ v, ∃ t, k v = .next t) →
      withOperand o s k ≠ .refused r := by
    intro α o k hk hf
    cases o with
    | raises c => cases hf
    | unwritten i => cases hf
    | value v =>
      obtain ⟨t, ht⟩ := hk v
      simp only [withOperand, ht] at hf
      cases hf
  cases i with
  | take n => exact field _ _ fun v => ⟨_, rfl⟩
  | peek n => exact field _ _ fun v => ⟨_, rfl⟩
  | tag n => exact field _ _ fun v => by simp only [consume, raise]; split <;> exact ⟨_, rfl⟩
  | verify n => exact field _ _ fun v => by simp only [consume, raise]; split <;> exact ⟨_, rfl⟩
  | beginFrame => intro h; cases h
  | crcCompute => exact field _ _ fun v => ⟨_, rfl⟩
  | cprResolve => intro h; cases h

/-- Everything a host write can be. -/
theorem hostWrite_cases (a : Nat) (w : Word) (s : State) :
    (portReg a = .cmd ∧ hostWrite a w s = runCommand w s) ∨
    (portReg a ≠ .cmd ∧ hostWrite a w s = .next (writeReg w s (portReg a))) := by
  unfold hostWrite
  cases portReg a <;> simp

/-- Everything the write of a command word can do when it answers a next state. -/
theorem runCommand_next (w : Word) (s t : State) (h : runCommand w s = .next t) :
    (∃ e, decode w = .error e ∧ t = s.fail .illegalCommand) ∨ ∃ i, decode w = .ok i ∧ exec i s = .next t := by
  unfold runCommand at h
  cases hd : decode w with
  | error e => rw [hd] at h; exact .inl ⟨e, rfl, by simpa [raise] using h.symm⟩
  | ok i => rw [hd] at h; exact .inr ⟨i, rfl, h⟩

/-- Everything a step can do when it answers a next state. -/
theorem step_next (s t : State) (h : step s = .next t) :
    (s.events = [] ∧ t = s) ∨
    (∃ rest, s.events = .reset :: rest ∧ t = resetBlock (s.setEvents rest)) ∨
    (∃ a rest, s.events = .read a :: rest ∧ t = hostRead a (s.setEvents rest)) ∨
    (∃ a w rest, s.events = .write a w :: rest ∧ portReg a ≠ .cmd ∧
      t = writeReg w (s.setEvents rest) (portReg a)) ∨
    (∃ a w rest, s.events = .write a w :: rest ∧ portReg a = .cmd ∧ runCommand w (s.setEvents rest) = .next t) := by
  unfold step at h
  cases he : s.events with
  | nil => rw [he] at h; exact .inl ⟨rfl, by simpa using h.symm⟩
  | cons e rest =>
    rw [he] at h
    cases e with
    | reset => exact .inr (.inl ⟨rest, rfl, by simpa [handleEvent] using h.symm⟩)
    | read a => exact .inr (.inr (.inl ⟨a, rest, rfl, by simpa [handleEvent] using h.symm⟩))
    | write a w =>
      rcases hostWrite_cases a w (s.setEvents rest) with ⟨hr, hw⟩ | ⟨hr, hw⟩
      · exact .inr (.inr (.inr (.inr ⟨a, w, rest, rfl, hr, by simpa [handleEvent, hw] using h⟩)))
      · exact .inr (.inr (.inr (.inl ⟨a, w, rest, rfl, hr, by simpa [handleEvent, hw] using h.symm⟩)))

end Sys2Proof.Machine
end

