-- ==== Sys2Proof/Laws/Memory.lean ====
section
/-! SUPPORT. The laws of the frame buffer: read after write, and the canonical form. -/

namespace Sys2Proof.Machine

@[simp] theorem Memory.read_nil (i : Nat) : Memory.read [] i = none := rfl

theorem Memory.read_write_same (m : Memory) (i : Nat) (v : Byte) : (m.write i v).read i = some v := by
  induction m with
  | nil => simp [Memory.write, Memory.read]
  | cons c rest ih =>
    obtain ⟨a, b⟩ := c
    simp only [Memory.write]
    split
    · simp [Memory.read]
    · split
      · simp [Memory.read]
      · rename_i h₁ h₂
        simp [Memory.read, Ne.symm h₂, ih]

theorem Memory.read_write_other (m : Memory) (i k : Nat) (v : Byte) (h : k ≠ i) :
    (m.write i v).read k = m.read k := by
  induction m with
  | nil => simp [Memory.write, Memory.read, h.symm]
  | cons c rest ih =>
    obtain ⟨a, b⟩ := c
    simp only [Memory.write]
    split
    · simp [Memory.read, h.symm]
    · split
      · rename_i h₁ h₂
        subst h₂
        simp [Memory.read, h.symm]
      · simp [Memory.read, ih]

theorem Memory.mem_write (m : Memory) (i : Nat) (v : Byte) (c : Host.Cell) (h : c ∈ m.write i v) :
    c = (i, v) ∨ c ∈ m := by
  induction m with
  | nil => simpa [Memory.write] using h
  | cons d rest ih =>
    obtain ⟨a, b⟩ := d
    simp only [Memory.write] at h
    split at h
    · simpa using h
    · split at h
      · simp only [List.mem_cons] at h ⊢
        tauto
      · simp only [List.mem_cons] at h ⊢
        rcases h with h | h
        · exact .inr (.inl h)
        · rcases ih h with h | h <;> tauto

/-- A write keeps the canonical form. -/
theorem Memory.write_wf (m : Memory) (i : Nat) (v : Byte) (h : m.wf) : (m.write i v).wf := by
  induction m with
  | nil => simp [Memory.write]
  | cons c rest ih =>
    obtain ⟨a, b⟩ := c
    simp only [Memory.wf, List.pairwise_cons] at h
    simp only [Memory.write]
    split
    · rename_i hlt
      simp only [Memory.wf, List.pairwise_cons, List.mem_cons]
      refine ⟨?_, h.1, h.2⟩
      rintro d (rfl | hd)
      · exact hlt
      · exact lt_trans hlt (h.1 d hd)
    · split
      · rename_i heq
        subst heq
        simpa [Memory.wf, List.pairwise_cons] using h
      · rename_i h₁ h₂
        simp only [Memory.wf, List.pairwise_cons]
        refine ⟨fun d hd => ?_, ih h.2⟩
        rcases Memory.mem_write rest i v d hd with rfl | hd'
        · simp only; omega
        · exact h.1 d hd'

/-- A window write keeps the canonical form. -/
theorem writeWindowByte_wf (m : Memory) (frameMax k j : Nat) (w : Word) (h : m.wf) :
    (writeWindowByte m frameMax k j w).wf := by
  unfold writeWindowByte
  split
  · exact Memory.write_wf _ _ _ h
  · exact h

theorem writeWindow_wf (m : Memory) (frameMax k : Nat) (w : Word) (h : m.wf) : (writeWindow m frameMax k w).wf := by
  simp only [writeWindow, List.foldl]
  iterate 4 apply writeWindowByte_wf
  exact h

/-- What one byte of a window write does to every byte of FB. -/
theorem read_writeWindowByte (m : Memory) (frameMax k j : Nat) (w : Word) (i : Nat) :
    (writeWindowByte m frameMax k j w).read i =
      if i = 4 * k + j ∧ i < frameMax then some (w.extractLsb' (24 - 8 * j) 8) else m.read i := by
  unfold writeWindowByte
  by_cases h : 4 * k + j < frameMax
  · by_cases hi : i = 4 * k + j
    · subst hi
      simp [h, Memory.read_write_same]
    · simp [h, hi, Memory.read_write_other _ _ _ _ hi]
  · have : ¬(i = 4 * k + j ∧ i < frameMax) := by omega
    simp [h, this]

/-- What a window write does to every byte of FB (20_memory.md R64). -/
theorem read_writeWindow (m : Memory) (frameMax k : Nat) (w : Word) (i : Nat) :
    (writeWindow m frameMax k w).read i =
      if i / 4 = k ∧ i < frameMax then some (w.extractLsb' (24 - 8 * (i % 4)) 8) else m.read i := by
  simp only [writeWindow, List.foldl, read_writeWindowByte]
  by_cases hf : i < frameMax
  · by_cases hk : i / 4 = k
    · have hi : i = 4 * k + i % 4 := by omega
      have h4 : i % 4 = 0 ∨ i % 4 = 1 ∨ i % 4 = 2 ∨ i % 4 = 3 := by omega
      rcases h4 with h | h | h | h <;> rw [h] at hi ⊢ <;> subst hi <;> simp [hf, hk]
    · have h0 : i ≠ 4 * k := by omega
      have hj : ∀ j, j < 4 → i ≠ 4 * k + j := by omega
      simp [hk, h0, hj 1 (by omega), hj 2 (by omega), hj 3 (by omega)]
  · simp [hf]

theorem mem_writeWindowByte (m : Memory) (frameMax k j : Nat) (w : Word) (h : ∀ c ∈ m, c.1 < frameMax) :
    ∀ c ∈ writeWindowByte m frameMax k j w, c.1 < frameMax := by
  intro c hc
  unfold writeWindowByte at hc
  split at hc
  · rcases Memory.mem_write _ _ _ _ hc with rfl | hc
    · assumption
    · exact h c hc
  · exact h c hc

/-- A window write writes no byte at or beyond FRAME_MAX (20_memory.md R64). -/
theorem mem_writeWindow (m : Memory) (frameMax k : Nat) (w : Word) (h : ∀ c ∈ m, c.1 < frameMax) :
    ∀ c ∈ writeWindow m frameMax k w, c.1 < frameMax := by
  simp only [writeWindow, List.foldl]
  iterate 4 apply mem_writeWindowByte
  exact h

/-- The reset memory has the canonical form. -/
theorem reset_fb_wf : State.reset.fb.wf := List.Pairwise.nil

end Sys2Proof.Machine
end

