-- ==== Sys2Proof/Laws/PerInstr.lean ====
section
/-! SUPPORT. The family of the per-instruction statement: every command's word stands in its row of
spec/opcode_table.json. -/

namespace Sys2Proof.Laws.TableRow

/-- The match and the mask of a command's row (30_encoding.md R94). -/
def row (i : Instr) : Word × Word :=
  match i with
  | .take _ => (0x00000001, 0xFFFFC0FF)
  | .peek _ => (0x00000002, 0xFFFFC0FF)
  | .tag _ => (0x00000003, 0xFFFFC0FF)
  | .verify _ => (0x00000004, 0xFFFFC0FF)
  | .beginFrame => (0x00000008, 0xFFFFFFFF)
  | .crcCompute => (0x00000010, 0xFFFFFFFF)
  | .cprResolve => (0x00000020, 0xFFFFFFFF)

/-- A command's word, masked by its row's mask, is its row's match. -/
def Statement (i : Instr) : Prop := encode i &&& (row i).2 = (row i).1

theorem take : ∀ n, Statement (.take n) := by unfold Statement; decide

theorem peek : ∀ n, Statement (.peek n) := by unfold Statement; decide

theorem tag : ∀ n, Statement (.tag n) := by unfold Statement; decide

theorem verify : ∀ n, Statement (.verify n) := by unfold Statement; decide

theorem beginFrame : Statement .beginFrame := by unfold Statement; decide

theorem crcCompute : Statement .crcCompute := by unfold Statement; decide

theorem cprResolve : Statement .cprResolve := by unfold Statement; decide

end Sys2Proof.Laws.TableRow
end

