-- ==== Sys2Proof/Laws/Port.lean ====
section
/-! SUPPORT. Where the port finds each register, and what a write keeps. -/

namespace Sys2Proof.Machine

theorem wordOffset_eq (a : Nat) : wordOffset a = a % 512 - a % 4 := by unfold wordOffset; omega

/-- The port acts on the containing word (20_memory.md R66). -/
theorem portReg_wordOffset (a : Nat) : portReg a = portReg (4 * (a % 512 / 4)) := by
  have : wordOffset (4 * (a % 512 / 4)) = wordOffset a := by unfold wordOffset; omega
  simp only [portReg, this]

/-- CMD is at word offset 0 and nowhere else (20_memory.md R62). -/
theorem portReg_eq_cmd_iff (a : Nat) : portReg a = .cmd ↔ wordOffset a = 0 := by
  have h : ∀ q : Fin 128, portReg (4 * q.val) = .cmd ↔ q.val = 0 := by decide
  have hq : a % 512 / 4 < 128 := by omega
  rw [portReg_wordOffset, h ⟨_, hq⟩]
  show a % 512 / 4 = 0 ↔ a % 512 / 4 * 4 = 0
  omega

/-- The register at a known offset of the map. -/
theorem portReg_of_offset (a o : Nat) (h : wordOffset a = o) : portReg a = portReg o := by
  subst h
  have : wordOffset (wordOffset a) = wordOffset a := by unfold wordOffset; omega
  simp only [portReg, this]

/-- The FB window (20_memory.md R64). -/
theorem portReg_window (a : Nat) (h₁ : 0x100 ≤ wordOffset a) (h₂ : wordOffset a < 0x180) :
    portReg a = .fbWord ((wordOffset a - 0x100) / 4) := by
  have h : ∀ q : Fin 32, portReg (0x100 + 4 * q.val) = .fbWord q.val := by decide
  have hq : (wordOffset a - 0x100) / 4 < 32 := by omega
  have ha : wordOffset a = 0x100 + 4 * ((wordOffset a - 0x100) / 4) := by unfold wordOffset at *; omega
  rw [portReg_of_offset a _ ha]
  exact h ⟨_, hq⟩

theorem mapLookup_mem (m : List (Nat × PortReg)) (o : Nat) (r : PortReg) (h : mapLookup m o = some r) : (o, r) ∈ m := by
  induction m with
  | nil => cases h
  | cons c rest ih =>
    obtain ⟨a, q⟩ := c
    simp only [mapLookup] at h
    split at h
    · rename_i ha
      cases h
      simp [ha]
    · exact List.mem_cons_of_mem _ (ih h)

/-- Only a window offset names a window word. -/
theorem portReg_eq_fbWord (a k : Nat) (h : portReg a = .fbWord k) : wordOffset a = 0x100 + 4 * k ∧ k < 32 := by
  unfold portReg at h
  split at h
  · rename_i r hr
    subst h
    have hm := mapLookup_mem _ _ _ hr
    simp [portMap] at hm
  · split at h
    · cases h
      have : wordOffset a % 4 = 0 := by unfold wordOffset; omega
      omega
    · cases h

/-- What a host write keeps: everything but FB, FLEN, ARG0, ARG1 and the CPR inputs (20_memory.md R63, R67). -/
theorem writeReg_kept (w : Word) (s : State) (r : PortReg) :
    (writeReg w s r).cursor = s.cursor ∧ (writeReg w s r).result = s.result ∧ (writeReg w s r).crcRem = s.crcRem ∧
      (writeReg w s r).status = s.status ∧ (writeReg w s r).cprOut = s.cprOut ∧
      (writeReg w s r).frameMax = s.frameMax ∧ (writeReg w s r).events = s.events ∧
      (writeReg w s r).reads = s.reads ∧ (writeReg w s r).draws = s.draws := by
  cases r <;> exact ⟨rfl, rfl, rfl, rfl, rfl, rfl, rfl, rfl, rfl⟩

/-- FB changes by a window write only (20_memory.md R64). -/
theorem writeReg_fb (w : Word) (s : State) (r : PortReg) :
    (writeReg w s r).fb = s.fb ∨ ∃ k, r = .fbWord k ∧ (writeReg w s r).fb = writeWindow s.fb s.frameMax k w := by
  cases r with
  | fbWord k => exact .inr ⟨k, rfl, rfl⟩
  | _ => exact .inl rfl

/-- FLEN changes by a write of FLEN only (10_state.md R23). -/
theorem writeReg_flen (w : Word) (s : State) (r : PortReg) (h : r ≠ .flen) : (writeReg w s r).flen = s.flen := by
  cases r <;> first | rfl | exact absurd rfl h

/-- A host read changes nothing but the model's list of reads and its draw counter (20_memory.md R67). -/
theorem hostRead_eq (a : Nat) (s : State) :
    ∃ v, hostRead a s = { s with reads := s.reads ++ [v], draws := s.draws + 1 } := ⟨_, rfl⟩

end Sys2Proof.Machine
end

