-- ==== Sys2Proof/Tests/Slice0.lean ====
section
/-! SUPPORT. Tests. Expected values come from spec/: the encodings of 30_encoding.md R94, the tables of 41_crc24.md R171 and
42_cpr.md R214, the vectors of 95_test_vectors.md. Each `witness_` theorem shows a state that meets the hypotheses of the
obligation it names. -/

namespace Sys2Proof.Tests

open Sys2Proof.Machine Sys2Proof.Claims

/-! ### Well-formedness -/

theorem test_wf_take_zero : (Instr.take 0).wellFormed = false := by decide
theorem test_wf_take_33 : (Instr.take 33).wellFormed = false := by decide
theorem test_wf_peek_zero : (Instr.peek 0).wellFormed = false := by decide
theorem test_wf_peek_63 : (Instr.peek 63).wellFormed = false := by decide
theorem test_wf_tag_zero : (Instr.tag 0).wellFormed = false := by decide
theorem test_wf_tag_33 : (Instr.tag 33).wellFormed = false := by decide
theorem test_wf_verify_zero : (Instr.verify 0).wellFormed = false := by decide
theorem test_wf_verify_33 : (Instr.verify 33).wellFormed = false := by decide
theorem test_wf_bounds : (Instr.take 1).wellFormed = true ∧ (Instr.take 32).wellFormed = true := by decide

/-! ### Decoding: the bit patterns of R94, bit 31 first -/

theorem test_decode_take : decode 0b00000000000000000010110100000001 = .ok (.take 45) := by rfl
theorem test_decode_peek : decode 0b00000000000000000000010100000010 = .ok (.peek 5) := by rfl
theorem test_decode_tag : decode 0b00000000000000000010000000000011 = .ok (.tag 32) := by rfl
theorem test_decode_verify : decode 0b00000000000000000000010000000100 = .ok (.verify 4) := by rfl
theorem test_decode_begin : decode 0b00000000000000000000000000001000 = .ok .beginFrame := by rfl
theorem test_decode_crc : decode 0b00000000000000000000000000010000 = .ok .crcCompute := by rfl
theorem test_decode_cpr : decode 0b00000000000000000000000000100000 = .ok .cprResolve := by rfl

/-- The illegal words of P4 and of R95, rejected by name. -/
theorem test_decode_rejects :
    decode 0x00000000 = .error .unassignedOpcode ∧ decode 0x00000005 = .error .unassignedOpcode ∧
    decode 0x00000021 = .error .unassignedOpcode ∧ decode 0x000000FF = .error .unassignedOpcode ∧
    decode 0x00000108 = .error .widthNotZero ∧ decode 0x00000110 = .error .widthNotZero ∧
    decode 0x00002020 = .error .widthNotZero ∧ decode 0x00004008 = .error .reservedBits ∧
    decode 0x80000501 = .error .reservedBits := by
  refine ⟨rfl, rfl, rfl, rfl, rfl, rfl, rfl, rfl, rfl⟩

/-- Every row of the opcode table decodes to its command and runs as the first command after reset. -/
theorem test_table_rows :
    ∀ r ∈ [((0x00000001 : Nat), Instr.take 0), (2, .peek 0), (3, .tag 0), (4, .verify 0), (8, .beginFrame),
      (16, .crcCompute), (32, .cprResolve)],
      decodeTableWord 32 r.1 = some r.2 := by decide

/-! ### States -/

/-- What a step answers, if it is a next state. -/
def after (o : Machine.Outcome) : Option State :=
  match o with
  | .next t => some t
  | .fault _ => none
  | .refused _ => none

/-- The byte string of a list, 0 beyond it. -/
def bytesOf (bs : List Byte) (i : Nat) : Byte := bs.getD i 0

/-- FB with these bytes written from FB[0] on. -/
def loaded (bs : List Byte) : State :=
  { State.reset with fb := bs.zipIdx.map (fun c => (c.2, c.1)), flen := BitVec.ofNat 8 bs.length }

/-- Frame X of 95_test_vectors.md section 3. -/
def frameX : List Byte := [0x28, 0x00, 0x08, 0x08, 0xF4, 0x60, 0xE0]

/-- Frame V-GK-1. -/
def frameGK1 : List Byte := [0x8D, 0x48, 0x40, 0xD6, 0x20, 0x2C, 0xC3, 0x71, 0xC3, 0x2C, 0xE0, 0x57, 0x60, 0x98]

/-- `loaded`, with CURSOR, ARG0 and ARG1. -/
def at_ (bs : List Byte) (off : BitVec 11) (a0 a1 : Word) : State :=
  { loaded bs with cursor := off, arg0 := a0, arg1 := a1 }

/-- The two slots and the parities. -/
def slots (aLat aLon bLat bLon : Raw) (par : BitVec 2) : State :=
  { State.reset with cprALat := aLat, cprALon := aLon, cprBLat := bLat, cprBLon := bLon, cprPar := par }

/-- RESULT, CURSOR and STATUS after a command. -/
def seen (o : Machine.Outcome) : Option (Word × Nat × Word) :=
  (after o).map fun t => (t.result, t.cursor.toNat, t.status.toWord)

/-! ### Commands -/

/-- D-CUR-3: 32 bits across five bytes. -/
theorem test_take_unaligned : seen (exec (.take 32) (at_ frameX 4 0 0)) = some (0x8000808F, 36, 0) := by decide
/-- D-CUR-5: one bit beyond the end. -/
theorem test_take_truncated : seen (exec (.take 1) (at_ frameX 56 0 0)) = some (0, 56, 0x11) := by decide
/-- D-CUR-7. -/
theorem test_peek_last : seen (exec (.peek 32) (at_ frameX 24 0 0)) = some (0x08F460E0, 24, 0) := by decide
/-- D-CUR-14. -/
theorem test_tag_match : seen (exec (.tag 32) (at_ frameX 0 0x28000808 0)) = some (0x28000808, 32, 0) := by decide
/-- D-CUR-15: the comparison takes all of ARG0. -/
theorem test_tag_full_compare : seen (exec (.tag 8) (at_ frameX 32 0x1F4 0)) = some (0, 32, 0x12) := by decide
/-- D-CUR-16. -/
theorem test_verify_range : seen (exec (.verify 5) (at_ frameGK1 0 17 18)) = some (17, 5, 0) := by decide
/-- D-CUR-18: an empty range. -/
theorem test_verify_empty : seen (exec (.verify 5) (at_ frameX 0 6 4)) = some (0, 0, 0x13) := by decide
/-- D-CUR-26: CRCZ and CPR_VALID stay. -/
theorem test_begin : seen (exec .beginFrame
    { at_ frameX 25 0 0 with status := { err := .truncated, anyErr := true, crcz := true, cprValid := true } }) =
    some (0, 0, 0x60) := by decide
/-- D-CRC-1. -/
theorem test_crc_df5 : (after (exec .crcCompute (loaded frameX))).map (fun t => (t.crcRem, t.status.toWord)) =
    some (0xA40442, 0) := by decide
/-- D-CRC-3. -/
theorem test_crc_df17 : (after (exec .crcCompute (loaded frameGK1))).map (fun t => (t.crcRem, t.status.toWord)) =
    some (0, 0x20) := by decide
/-- V-CPR-6, with the readback of CPR_LON_NUM and CPR_M. -/
theorem test_cpr_west : (after (exec .cprResolve (slots 85707 128451 100489 101581 1))).map (fun t => t.cprOut) =
    some (some ⟨886921, 60, 0xFFED8CCD, 45, 6, 0xFFFFFFF6, 45⟩) := by
  decide +kernel
/-- V-CPR-3. -/
theorem test_cpr_equal_parity : (after (exec .cprResolve (slots 74158 50194 93000 51372 3))).map
    (fun t => (t.cprOut, t.status.toWord)) = some (none, 0) := by rfl
/-- D-CUR-28: an unwritten byte. -/
theorem test_unwritten_byte : exec (.take 1) { State.reset with flen := 7 } = .fault (.unwrittenByte 0) := by rfl
/-- P4: CAPS reads 0x120. -/
theorem test_caps : (after (step { State.reset with events := [.read 0x008] })).map (fun t => t.reads) =
    some [0x00000120] := by decide
/-- D-CUR-22: TAKE 33, through the port. -/
theorem test_take_33 : seen (step (State.reset.withFetchWord 32 0x2101)) = some (0, 0, 0x16) := by decide

/-! ### Tables -/

/-- 41_crc24.md R171, indices 0x00 to 0x3F. -/
theorem test_crc_table_00 : (List.range 64).map (fun i => crcTable (BitVec.ofNat 8 i)) =
    [0x000000, 0xFFF409, 0x001C1B, 0xFFE812, 0x003836, 0xFFCC3F, 0x00242D, 0xFFD024,
      0x00706C, 0xFF8465, 0x006C77, 0xFF987E, 0x00485A, 0xFFBC53, 0x005441, 0xFFA048]
    ++ [0x00E0D8, 0xFF14D1, 0x00FCC3, 0xFF08CA, 0x00D8EE, 0xFF2CE7, 0x00C4F5, 0xFF30FC,
      0x0090B4, 0xFF64BD, 0x008CAF, 0xFF78A6, 0x00A882, 0xFF5C8B, 0x00B499, 0xFF4090]
    ++ [0x01C1B0, 0xFE35B9, 0x01DDAB, 0xFE29A2, 0x01F986, 0xFE0D8F, 0x01E59D, 0xFE1194,
      0x01B1DC, 0xFE45D5, 0x01ADC7, 0xFE59CE, 0x0189EA, 0xFE7DE3, 0x0195F1, 0xFE61F8]
    ++ [0x012168, 0xFED561, 0x013D73, 0xFEC97A, 0x01195E, 0xFEED57, 0x010545, 0xFEF14C,
      0x015104, 0xFEA50D, 0x014D1F, 0xFEB916, 0x016932, 0xFE9D3B, 0x017529, 0xFE8120] := by
  decide +kernel
/-- 41_crc24.md R171, indices 0x40 to 0x7F. -/
theorem test_crc_table_40 : (List.range 64).map (fun i => crcTable (BitVec.ofNat 8 (0x40 + i))) =
    [0x038360, 0xFC7769, 0x039F7B, 0xFC6B72, 0x03BB56, 0xFC4F5F, 0x03A74D, 0xFC5344,
      0x03F30C, 0xFC0705, 0x03EF17, 0xFC1B1E, 0x03CB3A, 0xFC3F33, 0x03D721, 0xFC2328]
    ++ [0x0363B8, 0xFC97B1, 0x037FA3, 0xFC8BAA, 0x035B8E, 0xFCAF87, 0x034795, 0xFCB39C,
      0x0313D4, 0xFCE7DD, 0x030FCF, 0xFCFBC6, 0x032BE2, 0xFCDFEB, 0x0337F9, 0xFCC3F0]
    ++ [0x0242D0, 0xFDB6D9, 0x025ECB, 0xFDAAC2, 0x027AE6, 0xFD8EEF, 0x0266FD, 0xFD92F4,
      0x0232BC, 0xFDC6B5, 0x022EA7, 0xFDDAAE, 0x020A8A, 0xFDFE83, 0x021691, 0xFDE298]
    ++ [0x02A208, 0xFD5601, 0x02BE13, 0xFD4A1A, 0x029A3E, 0xFD6E37, 0x028625, 0xFD722C,
      0x02D264, 0xFD266D, 0x02CE7F, 0xFD3A76, 0x02EA52, 0xFD1E5B, 0x02F649, 0xFD0240] := by
  decide +kernel
/-- 41_crc24.md R171, indices 0x80 to 0xBF. -/
theorem test_crc_table_80 : (List.range 64).map (fun i => crcTable (BitVec.ofNat 8 (0x80 + i))) =
    [0x0706C0, 0xF8F2C9, 0x071ADB, 0xF8EED2, 0x073EF6, 0xF8CAFF, 0x0722ED, 0xF8D6E4,
      0x0776AC, 0xF882A5, 0x076AB7, 0xF89EBE, 0x074E9A, 0xF8BA93, 0x075281, 0xF8A688]
    ++ [0x07E618, 0xF81211, 0x07FA03, 0xF80E0A, 0x07DE2E, 0xF82A27, 0x07C235, 0xF8363C,
      0x079674, 0xF8627D, 0x078A6F, 0xF87E66, 0x07AE42, 0xF85A4B, 0x07B259, 0xF84650]
    ++ [0x06C770, 0xF93379, 0x06DB6B, 0xF92F62, 0x06FF46, 0xF90B4F, 0x06E35D, 0xF91754,
      0x06B71C, 0xF94315, 0x06AB07, 0xF95F0E, 0x068F2A, 0xF97B23, 0x069331, 0xF96738]
    ++ [0x0627A8, 0xF9D3A1, 0x063BB3, 0xF9CFBA, 0x061F9E, 0xF9EB97, 0x060385, 0xF9F78C,
      0x0657C4, 0xF9A3CD, 0x064BDF, 0xF9BFD6, 0x066FF2, 0xF99BFB, 0x0673E9, 0xF987E0] := by
  decide +kernel
/-- 41_crc24.md R171, indices 0xC0 to 0xFF. -/
theorem test_crc_table_C0 : (List.range 64).map (fun i => crcTable (BitVec.ofNat 8 (0xC0 + i))) =
    [0x0485A0, 0xFB71A9, 0x0499BB, 0xFB6DB2, 0x04BD96, 0xFB499F, 0x04A18D, 0xFB5584,
      0x04F5CC, 0xFB01C5, 0x04E9D7, 0xFB1DDE, 0x04CDFA, 0xFB39F3, 0x04D1E1, 0xFB25E8]
    ++ [0x046578, 0xFB9171, 0x047963, 0xFB8D6A, 0x045D4E, 0xFBA947, 0x044155, 0xFBB55C,
      0x041514, 0xFBE11D, 0x04090F, 0xFBFD06, 0x042D22, 0xFBD92B, 0x043139, 0xFBC530]
    ++ [0x054410, 0xFAB019, 0x05580B, 0xFAAC02, 0x057C26, 0xFA882F, 0x05603D, 0xFA9434,
      0x05347C, 0xFAC075, 0x052867, 0xFADC6E, 0x050C4A, 0xFAF843, 0x051051, 0xFAE458]
    ++ [0x05A4C8, 0xFA50C1, 0x05B8D3, 0xFA4CDA, 0x059CFE, 0xFA68F7, 0x0580E5, 0xFA74EC,
      0x05D4A4, 0xFA20AD, 0x05C8BF, 0xFA3CB6, 0x05EC92, 0xFA189B, 0x05F089, 0xFA0480] := by
  decide +kernel

/-- NL at the latitude d/den degrees: |N|/Z = d·131072/(360·den). -/
def nlAt (d den : Nat) : Nat := nlZones nlTable (d * 131072) (360 * den)

/-- The NL vectors of 95_test_vectors.md section 5. -/
theorem test_nl_vectors :
    nlAt 0 1 = 59 ∧ nlAt 1047047129 100000000 = 59 ∧ nlAt 1047047130 100000000 = 58 ∧ nlAt 428091 8192 = 36 ∧
    nlAt 52 1 = 36 ∧ nlAt 8653536997 100000000 = 3 ∧ nlAt 8653536998 100000000 = 2 ∧ nlAt 87 1 = 2 ∧
    nlAt 8700000001 100000000 = 1 ∧ nlAt 90 1 = 1 ∧ nlAt 200 1 = 1 := by decide

/-- V-CPR-4, V-CPR-5, V-CPR-7, V-CPR-8. -/
theorem test_resolve_vectors :
    resolve ⟨58218, 20972, .odd⟩ ⟨45875, 76022, .even⟩ = some ⟨-6, -740557, 60, 49, 20, 2697462, 49⟩ ∧
    resolve ⟨45875, 76022, .even⟩ ⟨58218, 20972, .odd⟩ = some ⟨-6, -728214, 59, 49, 20, 2642412, 48⟩ ∧
    resolve ⟨32768, 0, .odd⟩ ⟨0, 0, .even⟩ = some ⟨-15, -1966080, 60, 1, 0, 0, 1⟩ ∧
    resolve ⟨33000, 0, .odd⟩ ⟨65536, 100000, .even⟩ = some ⟨14, 1900544, 60, 2, 1, -31072, 2⟩ := by decide

/-! ### Witnesses: states that meet the hypotheses of the obligations -/

/-- A state whose next event is `e`. -/
def facing (e : Event) : State := { loaded frameX with events := [e] }

theorem ready (n : BitVec 6) (bs : List Byte) (off : BitVec 11) (a0 a1 : Word)
    (hw : LegalWidth n) (hl : (loaded bs).flen.toNat ≤ 32) (hb : off.toNat + n.toNat ≤ 8 * (loaded bs).flen.toNat)
    (hr : ∀ k, k < n.toNat →
      (loaded bs).fb.read ((off.toNat + k) / 8) = some (bytesOf bs ((off.toNat + k) / 8))) :
    FieldReady n (at_ bs off a0 a1) (bytesOf bs) := ⟨hw, hl, hb, hr⟩

/-- TakeConsumesItsField, PeekReadsWithoutAdvancing: the narrowest and the widest field, and one that ends the frame. -/
theorem witness_field_ready :
    FieldReady 1 (at_ frameX 0 0 0) (bytesOf frameX) ∧ FieldReady 32 (at_ frameX 4 0 0) (bytesOf frameX) ∧
    FieldReady 32 (at_ frameX 24 0 0) (bytesOf frameX) := by
  refine ⟨ready _ _ _ _ _ ?_ ?_ ?_ ?_, ready _ _ _ _ _ ?_ ?_ ?_ ?_, ready _ _ _ _ _ ?_ ?_ ?_ ?_⟩ <;> decide

/-- CursorChecks: a width of 0 and of 33, FLEN = 33 above FRAME_MAX = 32, and one bit too many. -/
theorem witness_cursor_checks :
    (0 : BitVec 6).toNat = 0 ∧ 33 ≤ (33 : BitVec 6).toNat ∧ LegalWidth 1 ∧ LegalWidth 32 ∧
    State.reset.frameMax < ({ State.reset with flen := 33 } : State).flen.toNat ∧
    (at_ frameX 56 0 0).flen.toNat ≤ (at_ frameX 56 0 0).frameMax ∧
    8 * (at_ frameX 56 0 0).flen.toNat < (at_ frameX 56 0 0).cursor.toNat + (1 : BitVec 6).toNat := by decide

/-- TagDemandsItsValue: D-CUR-14 matches, D-CUR-15 does not, D-CUR-13 has an ARG0 that never matches. -/
theorem witness_tag :
    (FieldReady 32 (at_ frameX 0 0x28000808 0) (bytesOf frameX) ∧ fieldOf (bytesOf frameX) 0 32 = 0x28000808) ∧
    (FieldReady 8 (at_ frameX 32 0x1F4 0) (bytesOf frameX) ∧ fieldOf (bytesOf frameX) 32 8 ≠ 0x1F4) ∧
    (FieldReady 5 (at_ frameX 0 0x25 0) (bytesOf frameX) ∧ 2 ^ 5 ≤ (0x25 : Word).toNat) := by
  refine ⟨⟨ready _ _ _ _ _ ?_ ?_ ?_ ?_, ?_⟩, ⟨ready _ _ _ _ _ ?_ ?_ ?_ ?_, ?_⟩, ⟨ready _ _ _ _ _ ?_ ?_ ?_ ?_, ?_⟩⟩ <;>
    decide

/-- VerifyDemandsItsRange: both ends of a range that holds, and an empty range (D-CUR-20, D-CUR-18). -/
theorem witness_verify :
    (FieldReady 5 (at_ frameX 0 5 5) (bytesOf frameX) ∧ 5 ≤ fieldOf (bytesOf frameX) 0 5 ∧
      fieldOf (bytesOf frameX) 0 5 ≤ 5) ∧
    (FieldReady 5 (at_ frameX 0 6 4) (bytesOf frameX) ∧ ¬(6 ≤ fieldOf (bytesOf frameX) 0 5 ∧
      fieldOf (bytesOf frameX) 0 5 ≤ 4)) := by
  refine ⟨⟨ready _ _ _ _ _ ?_ ?_ ?_ ?_, ?_⟩, ⟨ready _ _ _ _ _ ?_ ?_ ?_ ?_, ?_⟩⟩ <;> decide

/-- ThreeBytesMakeOneField: an unaligned field. -/
theorem witness_three_bytes : FieldReady 24 (at_ frameX 13 0 0) (bytesOf frameX) := by
  refine ready _ _ _ _ _ ?_ ?_ ?_ ?_ <;> decide

/-- PeekForetellsTake. -/
theorem witness_peek : ∃ t, exec (.peek 5) (at_ frameX 0 0 0) = .next t ∧ t.status.err = .none := ⟨_, rfl, rfl⟩

/-- NoByteBeyondTheFrameIsRead: FB[7] differs, FLEN is 7; one command answers, another faults. -/
theorem witness_beyond :
    (∀ k, k < (loaded frameX).flen.toNat →
      Memory.read (writeWindow (loaded frameX).fb 32 2 0xFFFFFFFF) k = (loaded frameX).fb.read k) ∧
    (∃ t, exec .crcCompute (loaded frameX) = .next t) ∧
    (∃ f, exec (.take 1) { State.reset with flen := 7 } = .fault f) :=
  ⟨by decide, ⟨_, rfl⟩, ⟨_, rfl⟩⟩

/-- UnwrittenFieldByteFaults, UnwrittenCrcByteFaults: FB[7] of eight bytes is unwritten. -/
theorem witness_unwritten :
    cursorWidth (.take 16) = some 16 ∧ LegalWidth 16 ∧
    (∃ k, k < (16 : BitVec 6).toNat ∧ (loaded frameX).fb.read ((48 + k) / 8) = none) ∧
    (48 + 16 ≤ 8 * ({ at_ frameX 48 0 0 with flen := 8 } : State).flen.toNat) ∧
    3 ≤ ({ loaded frameX with flen := 8 } : State).flen.toNat ∧ (loaded frameX).fb.read 7 = none :=
  ⟨rfl, by decide, ⟨8, by decide, by decide⟩, by decide, by decide, by decide⟩

theorem framed (bs : List Byte) (hl : (loaded bs).flen.toNat ≤ 32) (h3 : 3 ≤ (loaded bs).flen.toNat)
    (hr : ∀ i, i < (loaded bs).flen.toNat → (loaded bs).fb.read i = some (bytesOf bs i)) :
    FrameReady (loaded bs) (bytesOf bs) := ⟨hl, h3, hr⟩

/-- CrcFollowsThePseudocode, CrcIsBitSerial, SourceFrameRecoversItsAddress; CrcCornerCases: FLEN = 3, 4 and all zero;
and the two errors, at their boundaries 33 and 2. -/
theorem witness_frame_ready :
    FrameReady (loaded frameX) (bytesOf frameX) ∧ FrameReady (loaded [0x12, 0x34, 0x56]) (bytesOf [0x12, 0x34, 0x56]) ∧
    FrameReady (loaded [0x80, 0, 0, 0]) (bytesOf [0x80, 0, 0, 0]) ∧ FrameReady (loaded [0, 0, 0]) (bytesOf [0, 0, 0]) ∧
    State.reset.frameMax < ({ State.reset with flen := 33 } : State).flen.toNat ∧
    ({ State.reset with flen := 2 } : State).flen.toNat < 3 := by
  refine ⟨framed _ ?_ ?_ ?_, framed _ ?_ ?_ ?_, framed _ ?_ ?_ ?_, framed _ ?_ ?_ ?_, ?_, ?_⟩ <;> decide

/-- CrcIsLinear. -/
theorem witness_linear :
    FrameReady (loaded [1, 2, 3, 4]) (bytesOf [1, 2, 3, 4]) ∧ FrameReady (loaded [8, 8, 8, 8]) (bytesOf [8, 8, 8, 8]) ∧
    FrameReady (loaded [9, 10, 11, 12]) (fun i => bytesOf [1, 2, 3, 4] i ^^^ bytesOf [8, 8, 8, 8] i) := by
  refine ⟨framed _ ?_ ?_ ?_, framed _ ?_ ?_ ?_, ⟨?_, ?_, ?_⟩⟩ <;> decide

/-- CrcDetectsEveryBitFlip: a flip before the last 24 bits and the first one within them. -/
theorem witness_flip :
    FrameReady (loaded [1, 2, 3, 4]) (bytesOf [1, 2, 3, 4]) ∧
    FrameReady (loaded [0, 2, 3, 4]) (flipBit (bytesOf [1, 2, 3, 4]) 7) ∧
    FrameReady (loaded [1, 0x82, 3, 4]) (flipBit (bytesOf [1, 2, 3, 4]) 8) ∧ 8 * (4 - 3) ≤ 8 := by
  refine ⟨framed _ ?_ ?_ ?_, ⟨?_, ?_, ?_⟩, ⟨?_, ?_, ?_⟩, ?_⟩ <;> decide

/-- EqualParitiesGiveNoPosition; ResolverIsTheSourceFormulas, ResolverOutputsAreLegal, SwappedSlotsKeepIndices:
V-CPR-1 and V-CPR-2, one of each selected parity. -/
theorem witness_parities :
    (slots 74158 50194 93000 51372 3).cprPar.getLsbD 0 = (slots 74158 50194 93000 51372 3).cprPar.getLsbD 1 ∧
    (slots 74158 50194 93000 51372 1).cprPar.getLsbD 0 ≠ (slots 74158 50194 93000 51372 1).cprPar.getLsbD 1 ∧
    (slots 93000 51372 74158 50194 2).cprPar.getLsbD 0 = (slots 74158 50194 93000 51372 1).cprPar.getLsbD 1 ∧
    (slots 93000 51372 74158 50194 2).cprPar.getLsbD 1 = (slots 74158 50194 93000 51372 1).cprPar.getLsbD 0 := by decide

/-- SwappedSlotsKeepIndices, its last clause: the two results of V-CPR-1 and V-CPR-2 have the same NL. -/
theorem witness_same_nl :
    (resolve ⟨74158, 50194, .odd⟩ ⟨93000, 51372, .even⟩).map (fun p => p.nl) =
      (resolve ⟨93000, 51372, .even⟩ ⟨74158, 50194, .odd⟩).map (fun p => p.nl) := by decide

/-- ZoneCountNeverGrows: two latitudes, the second not below the first. -/
theorem witness_zone_count : 0 < 60 ∧ 0 < 59 ∧ 1141576 * 59 ≤ 1900544 * 60 := by decide

/-- StepRunsTheWrittenCommand, CommandWordChecksInOrder: a command word on its way to CMD, also at a misaligned offset
and through an alias of it, and a read of CMD. -/
theorem witness_command_write :
    (facing (.write 0x203 0x00000501)).events = .write 0x203 0x00000501 :: [] ∧ wordAt 0x203 = 0x000 ∧
    decode 0x00000501 = .ok (.take 5) ∧ (facing (.read 3)).events = .read 3 :: [] ∧ wordAt 3 = 0x000 := by
  refine ⟨rfl, by decide, rfl, rfl, by decide⟩

/-- NoEventNoChange; ResetGivesTheResetState: no event, and the reset event. -/
theorem witness_events :
    State.reset.events = [] ∧ (facing .reset).events = .reset :: [] ∧ Config.LegalFrameMax (facing .reset).frameMax :=
  ⟨rfl, rfl, by decide⟩

/-- HostReadsFollowTheMap, HostWritesFollowTheMap, ReservedOffsetsDoNothing: an offset for each clause at both ends of its word, the reserved ranges
at both ends, FRAME_MAX legal, and an output register present. -/
theorem witness_map :
    (∀ o ∈ [0x000, 0x004, 0x008, 0x00C, 0x010, 0x014, 0x018, 0x01C, 0x020, 0x040, 0x044, 0x048, 0x04C, 0x050, 0x060, 0x064,
      0x068, 0x06C, 0x070, 0x074, 0x078], wordAt o = o ∧ wordAt (o + 3) = o) ∧
    (∀ o ∈ [0x024, 0x03C, 0x054, 0x05C, 0x07C, 0x0FC, 0x180, 0x1FC], wordAt o = o ∧ Reserved o ∧ IgnoresWrites o) ∧
    (∀ o ∈ [0x004, 0x008, 0x010, 0x01C, 0x020, 0x060, 0x064, 0x068, 0x06C, 0x070, 0x074, 0x078], IgnoresWrites o) ∧
    Config.LegalFrameMax (facing (.read 0x060)).frameMax ∧
    (∃ out, ({ facing (.read 0x060) with cprOut := some ⟨0, 60, 0, 59, 0, 0, 59⟩ } : State).cprOut = some out) := by
  refine ⟨by decide, ?_, ?_, by decide, ⟨_, rfl⟩⟩
  · unfold Reserved IgnoresWrites; decide
  · unfold IgnoresWrites; decide

/-- The clauses of the register map exclude each other: a reserved offset is none of the map's. -/
theorem witness_map_disjoint :
    ∀ o ∈ [0x000, 0x004, 0x008, 0x00C, 0x010, 0x014, 0x018, 0x01C, 0x020, 0x040, 0x044, 0x048, 0x04C, 0x050, 0x060, 0x064,
      0x068, 0x06C, 0x070, 0x074, 0x078, 0x100, 0x17C], ¬Reserved o := by
  unfold Reserved; decide

/-- WindowIsPackedBigEndian, WindowReadsBackWhatWasWritten, ReservedOffsetsDoNothing: the first window word, the last one
below FRAME_MAX, the last of the window, the first one at FRAME_MAX, and a written byte. -/
theorem witness_window :
    (0x100 ≤ wordAt 0x100 ∧ wordAt 0x100 < 0x180) ∧ (wordAt 0x11C - 0x100 + 3 < State.reset.frameMax) ∧
    (0x100 ≤ wordAt 0x17F ∧ wordAt 0x17F < 0x180 ∧ State.reset.frameMax ≤ wordAt 0x17F - 0x100 + 3) ∧
    (0x100 ≤ wordAt 0x120 ∧ wordAt 0x120 < 0x180 ∧ State.reset.frameMax ≤ wordAt 0x120 - 0x100) ∧
    (loaded frameX).fb.read 0 = some 0x28 ∧
    ({ State.reset with events := [.write 0x100 1, .read 0x100] } : State).events = .write 0x100 1 :: .read 0x100 :: [] := by
  refine ⟨by decide, by decide, by decide, by decide, by decide, rfl⟩

/-- RejectsIllegalWords, its two clauses: RSVD ≠ 0 on a TAKE word, WIDTH ≠ 0 on a BEGIN word. -/
theorem witness_illegal_words :
    (0x80000501 : Word).toNat % 2 ^ 8 = 1 ∧ (0x80000501 : Word).toNat / 2 ^ 14 ≠ 0 ∧
    (0x00000108 : Word).toNat % 2 ^ 8 = 8 ∧ (0x00000108 : Word).toNat / 2 ^ 8 ≠ 0 := by decide

/-- FailureChangesOnlyStatus, EachCodeNamesItsCause, CommandFrames: a command word that answers, with an error and
without. -/
theorem witness_run :
    (∃ t, runCommand 0x00000000 State.reset = .next t ∧ t.status.err ≠ .none) ∧
    (∃ t, runCommand 0x00000010 (loaded frameX) = .next t ∧ t.status.err = .none) ∧
    (∃ t, exec (.peek 5) (loaded frameX) = .next t) ∧ (∃ t, exec .beginFrame (loaded frameX) = .next t) ∧
    (∃ t, exec .crcCompute (loaded frameX) = .next t) ∧ (∃ t, exec .cprResolve (loaded frameX) = .next t) :=
  ⟨⟨_, rfl, by decide⟩, ⟨_, rfl, rfl⟩, ⟨_, rfl⟩, ⟨_, rfl⟩, ⟨_, rfl⟩, ⟨_, rfl⟩⟩

/-- OnlyBeginClearsAnyErr. -/
theorem witness_anyErr :
    ∃ t, step ((State.reset.fail .truncated).withFetchWord 32 8) = .next t ∧
      (State.reset.fail .truncated).status.anyErr = true ∧ t.status.anyErr = false := ⟨_, rfl, rfl, rfl⟩

/-- OnlyCursorCommandsMoveCursor, PositionPersists, OnlyTheHostWritesTheFrame, FrameMaxNeverChanges: steps that do move
CURSOR, make a position, write FB and write FLEN. -/
theorem witness_changes :
    (∃ t, step ((loaded frameX).withFetchWord 32 0x501) = .next t ∧ t.cursor ≠ (loaded frameX).cursor) ∧
    (∃ t, step ((slots 0 0 0 0 1).withFetchWord 32 0x20) = .next t ∧ t.cprOut ≠ (slots 0 0 0 0 1).cprOut) ∧
    (∃ t, step { State.reset with events := [.write 0x11C 1] } = .next t ∧ t.fb.read 31 ≠ State.reset.fb.read 31) ∧
    (∃ t, step { State.reset with events := [.write 0x00C 1] } = .next t ∧ t.flen ≠ State.reset.flen) :=
  ⟨⟨_, rfl, by decide⟩, ⟨_, rfl, by decide⟩, ⟨_, rfl, by decide⟩, ⟨_, rfl, by decide⟩⟩

/-- EveryStepKeepsTheInvariant: a state with a frame, a cursor within it and a command to come. -/
theorem witness_inv :
    Inv ((at_ frameX 4 0 0).withFetchWord 32 0x2001) ∧
    ∃ t, step ((at_ frameX 4 0 0).withFetchWord 32 0x2001) = .next t := by
  refine ⟨⟨by decide, by decide, by decide, by decide, by decide, by decide, rfl, ?_⟩, ⟨_, rfl⟩⟩
  intro o h
  cases h

/-- BlockNeverSticks: a written frame, and a step that stops. -/
theorem witness_written :
    FrameWritten (loaded frameX) ∧
    ∃ f, step (({ State.reset with flen := 7 } : State).withFetchWord 32 0x101) = .fault f :=
  ⟨by unfold FrameWritten; decide, ⟨_, rfl⟩⟩

/-- FrameLoadsItsBytes: frame X, and the longest frame of a FRAME_MAX of 32. -/
theorem witness_frame_load :
    frameX.length ≤ State.reset.frameMax ∧ (List.replicate 32 (0xFF : Byte)).length ≤ State.reset.frameMax ∧
    Config.LegalFrameMax State.reset.frameMax ∧
    ({ State.reset with events := Program.frame frameX } : State).events = Program.frame frameX ++ [] := by
  refine ⟨by decide, by decide, by decide, by rfl⟩

/-- FieldsAreReadInOrder: the DF5 layout over frame X. -/
theorem witness_fields :
    tiles df5Map (loaded frameX).cursor.toNat 56 = true ∧ (∀ f ∈ df5Map, 1 ≤ f.width ∧ f.width ≤ 32) ∧
    56 ≤ 8 * (loaded frameX).flen.toNat ∧ (loaded frameX).flen.toNat ≤ (loaded frameX).frameMax ∧
    df5Map.getLast? = some ⟨"AP", 32, 24⟩ ∧
    (∀ i, i < (loaded frameX).flen.toNat → (loaded frameX).fb.read i = some (bytesOf frameX i)) := by
  decide

end Sys2Proof.Tests
end

/-! PROOFS for 00_scope.md: what a step does with no event to come, and that no step changes FRAME_MAX. -/

namespace Sys2Proof.Machine

/-- With no event to come, `step` takes its first branch (00_scope.md R12). -/
@[simp] theorem step_of_events_nil (s : State) (h : s.events = []) : step s = .next s := by
  simp only [step, h]

/-! FRAME_MAX under each kind of access (10_state.md R41). -/

@[simp] theorem hostRead_frameMax (a : Nat) (s : State) : (hostRead a s).frameMax = s.frameMax :=
  State.logRead_frameMax s _

@[simp] theorem writeReg_frameMax (w : Word) (s : State) (r : PortReg) : (writeReg w s r).frameMax = s.frameMax := by
  obtain ⟨-, -, -, -, -, hmax, -, -, -⟩ := writeReg_kept w s r
  exact hmax

/-- Whether it raises, consumes a field, peeks, restarts the cursor, checks a frame or resolves a position, a command
leaves a state built by updates that keep FRAME_MAX. -/
theorem exec_frameMax (i : Instr) (s t : State) (h : exec i s = .next t) : t.frameMax = s.frameMax := by
  rcases exec_next i s t h with
    ⟨c, -, rfl⟩ | ⟨n, v, -, -, rfl⟩ | ⟨n, v, -, -, rfl⟩ | ⟨-, rfl⟩ | ⟨-, bytes, -, rfl⟩ | ⟨-, rfl⟩
  all_goals simp

theorem runCommand_frameMax (w : Word) (s t : State) (h : runCommand w s = .next t) : t.frameMax = s.frameMax := by
  rcases runCommand_next w s t h with ⟨e, -, rfl⟩ | ⟨i, -, hi⟩
  · exact State.fail_frameMax s _
  · exact exec_frameMax i s t hi

/-- A step is no event, a reset, a host read, a host write that stores, or a command; each keeps FRAME_MAX. -/
theorem step_frameMax (s t : State) (h : step s = .next t) : t.frameMax = s.frameMax := by
  rcases step_next s t h with
    ⟨-, rfl⟩ | ⟨rest, -, rfl⟩ | ⟨a, rest, -, rfl⟩ | ⟨a, w, rest, -, -, rfl⟩ | ⟨a, w, rest, -, -, hrun⟩
  · rfl
  · simp
  · simp
  · simp
  · simpa using runCommand_frameMax w _ t hrun

end Sys2Proof.Machine

namespace Sys2Proof.Claims

open Sys2Proof.Machine

/-- Settles O7: it is the branch of `step` for an empty list of events. -/
theorem noEventNoChange : Obligations.NoEventNoChange := step_of_events_nil

/-- Settles O42, by the cases of a step and, for a command, the cases of `exec`. -/
theorem frameMaxNeverChanges : Obligations.FrameMaxNeverChanges := step_frameMax

end Sys2Proof.Claims

/-! PROOFS for 10_state.md: the command a write of CMD runs, which steps change CURSOR, ANYERR, the CPR outputs and the
frame, and the invariant of the block. -/

namespace Sys2Proof.Machine

open Sys2Proof.Claims

/-! The offsets of the map in the words of the statements (20_memory.md R61, R66). -/

theorem wordAt_eq_wordOffset (a : Nat) : wordAt a = wordOffset a := (wordOffset_eq a).symm

theorem portReg_eq_cmd_iff_wordAt (a : Nat) : portReg a = .cmd ↔ wordAt a = 0x000 := by
  rw [wordAt_eq_wordOffset]
  exact portReg_eq_cmd_iff a

/-- FLEN is at word offset 0x00C only (20_memory.md R62). -/
theorem wordAt_of_portReg_flen (a : Nat) (h : portReg a = .flen) : wordAt a = 0x00C := by
  have hmap : ∀ q : Fin 128, portReg (4 * q.val) = .flen → q.val = 3 := by decide
  rw [portReg_wordOffset] at h
  have hq : a % 512 / 4 = 3 := hmap ⟨a % 512 / 4, by omega⟩ h
  unfold wordAt
  omega

/-! The equations of a step that takes an access to CMD (10_state.md R31). -/

theorem step_of_events_cons (s : State) (e : Event) (rest : List Event) (h : s.events = e :: rest) :
    step s = handleEvent e (s.setEvents rest) := by
  simp only [step, h]

theorem hostWrite_of_cmd (a : Nat) (w : Word) (s : State) (h : portReg a = .cmd) : hostWrite a w s = runCommand w s := by
  simp only [hostWrite, h]

theorem hostRead_of_cmd (a : Nat) (s : State) (h : portReg a = .cmd) : hostRead a s = s.logRead 0 := by
  simp only [hostRead, h, readReg]

theorem runCommand_of_decode_ok (w : Word) (i : Instr) (s : State) (h : decode w = .ok i) :
    runCommand w s = exec i s := by
  simp only [runCommand, h]

/-! What a host read and a host write keep (20_memory.md R63, R67). -/

section
variable (a : Nat) (w : Word) (s : State) (r : PortReg)

@[simp] theorem hostRead_cursor : (hostRead a s).cursor = s.cursor := rfl
@[simp] theorem hostRead_status : (hostRead a s).status = s.status := rfl
@[simp] theorem hostRead_cprOut : (hostRead a s).cprOut = s.cprOut := rfl

@[simp] theorem writeReg_cursor : (writeReg w s r).cursor = s.cursor := (writeReg_kept w s r).1

@[simp] theorem writeReg_crcRem : (writeReg w s r).crcRem = s.crcRem := by
  obtain ⟨-, -, hrem, -⟩ := writeReg_kept w s r
  exact hrem

@[simp] theorem writeReg_status : (writeReg w s r).status = s.status := by
  obtain ⟨-, -, -, hstatus, -⟩ := writeReg_kept w s r
  exact hstatus

@[simp] theorem writeReg_cprOut : (writeReg w s r).cprOut = s.cprOut := by
  obtain ⟨-, -, -, -, hout, -⟩ := writeReg_kept w s r
  exact hout

end

/-! What a command does to each register that a rule of 10_state.md speaks of. -/

/-- Where a field that was read ends: within the frame, so within FB and within 11 bits (00_scope.md R6). -/
theorem consumed_cursor_toNat (n : BitVec 6) (v : Nat) (s : State) (h : fetchField n s = .value v) :
    (consumed n v s).cursor.toNat = s.cursor.toNat + n.toNat := by
  obtain ⟨-, -, hbounds, -⟩ := fetchField_value n s v h
  have hlen := s.flen.isLt
  simp only [State.succeed_cursor, State.setCursor_cursor, BitVec.toNat_ofNat]
  omega

/-- CURSOR moves by TAKE, TAG, VERIFY and BEGIN only (10_state.md R24). -/
theorem exec_cursor (i : Instr) (s t : State) (h : exec i s = .next t) :
    t.cursor = s.cursor ∨ (i = .beginFrame ∧ t.cursor = 0) ∨
      ∃ n, (i = .take n ∨ i = .tag n ∨ i = .verify n) ∧ t.cursor.toNat = s.cursor.toNat + n.toNat := by
  rcases exec_next i s t h with
    ⟨c, -, rfl⟩ | ⟨n, v, hi, hv, rfl⟩ | ⟨n, v, -, -, rfl⟩ | ⟨hi, rfl⟩ | ⟨-, bytes, -, rfl⟩ | ⟨-, rfl⟩
  · exact .inl rfl
  · exact .inr (.inr ⟨n, hi, consumed_cursor_toNat n v s hv⟩)
  · exact .inl rfl
  · exact .inr (.inl ⟨hi, rfl⟩)
  · exact .inl rfl
  · exact .inl rfl

/-- Only BEGIN clears ANYERR (10_state.md R29). -/
theorem exec_anyErr (i : Instr) (s t : State) (h : exec i s = .next t) (hi : i ≠ .beginFrame)
    (hs : s.status.anyErr = true) : t.status.anyErr = true := by
  rcases exec_next i s t h with
    ⟨c, -, rfl⟩ | ⟨n, v, -, -, rfl⟩ | ⟨n, v, -, -, rfl⟩ | ⟨hb, -⟩ | ⟨-, bytes, -, rfl⟩ | ⟨-, rfl⟩
  · rfl
  · exact hs
  · exact hs
  · exact absurd hb hi
  · exact hs
  · exact hs

/-- Only CPR_RESOLVE writes the CPR outputs and CPR_VALID (10_state.md R39). -/
theorem exec_position (i : Instr) (s t : State) (h : exec i s = .next t) (hi : i ≠ .cprResolve) :
    t.cprOut = s.cprOut ∧ t.status.cprValid = s.status.cprValid := by
  rcases exec_next i s t h with
    ⟨c, -, rfl⟩ | ⟨n, v, -, -, rfl⟩ | ⟨n, v, -, -, rfl⟩ | ⟨-, rfl⟩ | ⟨-, bytes, -, rfl⟩ | ⟨hr, -⟩
  · exact ⟨rfl, rfl⟩
  · exact ⟨rfl, rfl⟩
  · exact ⟨rfl, rfl⟩
  · exact ⟨rfl, rfl⟩
  · exact ⟨rfl, rfl⟩
  · exact absurd hr hi

/-- No command writes the frame (10_state.md R22, R23). -/
theorem exec_fb_flen (i : Instr) (s t : State) (h : exec i s = .next t) : t.fb = s.fb ∧ t.flen = s.flen := by
  rcases exec_next i s t h with
    ⟨c, -, rfl⟩ | ⟨n, v, -, -, rfl⟩ | ⟨n, v, -, -, rfl⟩ | ⟨-, rfl⟩ | ⟨-, bytes, -, rfl⟩ | ⟨-, rfl⟩
  all_goals exact ⟨rfl, rfl⟩

theorem runCommand_fb_flen (w : Word) (s t : State) (h : runCommand w s = .next t) :
    t.fb = s.fb ∧ t.flen = s.flen := by
  rcases runCommand_next w s t h with ⟨e, -, rfl⟩ | ⟨i, -, hi⟩
  · exact ⟨rfl, rfl⟩
  · exact exec_fb_flen i s t hi

/-- The word of BEGIN is 0x00000008 and no other (30_encoding.md R94). -/
theorem eq_of_decode_beginFrame (w : Word) (h : decode w = .ok .beginFrame) : w = 0x00000008 := by
  obtain ⟨hrsvd, hrow⟩ := decode_ok w .beginFrame h
  obtain ⟨hop, hwidth⟩ : opcodeOf w = 0x08 ∧ widthOf w = 0 := by simpa using hrow
  exact word_ext w 0x00000008 hrsvd hwidth hop

/-- A step that is no reset and runs no command leaves CURSOR, the CPR outputs and CPR_VALID as they are and clears no
ANYERR; an illegal command word is one of these steps. -/
theorem step_reset_or_exec_or_kept (s t : State) (h : step s = .next t) :
    (∃ rest, s.events = .reset :: rest ∧ t = resetBlock (s.setEvents rest)) ∨
    (∃ a w rest i, s.events = .write a w :: rest ∧ wordAt a = 0x000 ∧ decode w = .ok i ∧
      exec i (s.setEvents rest) = .next t) ∨
    (t.cursor = s.cursor ∧ t.cprOut = s.cprOut ∧ t.status.cprValid = s.status.cprValid ∧
      (s.status.anyErr = true → t.status.anyErr = true)) := by
  rcases step_next s t h with
    ⟨-, rfl⟩ | hreset | ⟨a, rest, -, rfl⟩ | ⟨a, w, rest, -, -, rfl⟩ | ⟨a, w, rest, he, ha, hrun⟩
  · exact .inr (.inr ⟨rfl, rfl, rfl, id⟩)
  · exact .inl hreset
  · exact .inr (.inr (by simp))
  · exact .inr (.inr (by simp))
  · rcases runCommand_next w _ t hrun with ⟨e, -, rfl⟩ | ⟨i, hd, hi⟩
    · exact .inr (.inr (by simp))
    · exact .inr (.inl ⟨a, w, rest, i, he, (portReg_eq_cmd_iff_wordAt a).1 ha, hd, hi⟩)

/-- A host write changes only bytes of the window word it names, below FRAME_MAX (20_memory.md R64). -/
theorem writeReg_read_ne (a : Nat) (w : Word) (s : State) (i : Nat)
    (h : (writeReg w s (portReg a)).fb.read i ≠ s.fb.read i) :
    wordAt a = 0x100 + 4 * (i / 4) ∧ wordAt a < 0x180 ∧ i < s.frameMax := by
  rcases writeReg_fb w s (portReg a) with hfb | ⟨k, hk, hfb⟩
  · exact absurd (by rw [hfb]) h
  · rw [hfb, read_writeWindow] at h
    obtain ⟨hoff, hlt⟩ := portReg_eq_fbWord a k hk
    obtain ⟨rfl, hi⟩ : i / 4 = k ∧ i < s.frameMax := by
      by_contra hc
      exact h (if_neg hc)
    rw [wordAt_eq_wordOffset, hoff]
    exact ⟨rfl, by omega, hi⟩

/-! The legal values of a resolved position (10_state.md R35 to R37). -/

/-- The contents of a slot: two raw values of 17 bits (10_state.md R32, R33). -/
def CprFrame.Fits (f : CprFrame) : Prop := f.lat < 131072 ∧ f.lon < 131072

theorem slotA_fits (s : State) : (slotA s).Fits := ⟨s.cprALat.isLt, s.cprALon.isLt⟩

theorem slotB_fits (s : State) : (slotB s).Fits := ⟨s.cprBLat.isLt, s.cprBLon.isLt⟩

/-- `OutputsLegal` on the exact integers of a position, before they are stored (42_cpr.md R215). -/
structure Position.Legal (p : Position) : Prop where
  latZones : p.latZones = 60 ∨ p.latZones = 59
  lat : -(p.latZones * 131072 : Int) ≤ 4 * p.latNum ∧ 4 * p.latNum < 3 * (p.latZones * 131072 : Int)
  lonZones : 1 ≤ p.lonZones ∧ p.lonZones ≤ 59
  lon : -(p.lonZones * 65536 : Int) ≤ p.lonNum ∧ p.lonNum < (p.lonZones * 65536 : Int)
  j : -60 ≤ p.j ∧ p.j ≤ 59
  m : -59 ≤ p.m ∧ p.m ≤ 58
  nl : 1 ≤ p.nl ∧ p.nl ≤ 59

/-- A number within 2^30 keeps its value in a 32-bit register. -/
theorem toInt_ofInt_word (x : Int) (h₁ : -1073741824 ≤ x) (h₂ : x < 1073741824) : (BitVec.ofInt 32 x).toInt = x :=
  BitVec.toInt_ofInt_eq_self (by decide) (by omega) (by omega)

/-- The registers hold a legal position without loss, so they are legal. -/
theorem Position.Legal.outputs {p : Position} (h : p.Legal) : OutputsLegal p.outputs := by
  obtain ⟨hz, ⟨hlat₁, hlat₂⟩, ⟨hlz₁, hlz₂⟩, ⟨hlon₁, hlon₂⟩, ⟨hj₁, hj₂⟩, ⟨hm₁, hm₂⟩, hnl₁, hnl₂⟩ := h
  have latNum : p.outputs.latNum.toInt = p.latNum := toInt_ofInt_word _ (by omega) (by omega)
  have latZones : p.outputs.latZones.toNat = p.latZones := Nat.mod_eq_of_lt (by omega)
  have lonNum : p.outputs.lonNum.toInt = p.lonNum := toInt_ofInt_word _ (by omega) (by omega)
  have lonZones : p.outputs.lonZones.toNat = p.lonZones := Nat.mod_eq_of_lt (by omega)
  have j : p.outputs.j.toInt = p.j := toInt_ofInt_word _ (by omega) (by omega)
  have m : p.outputs.m.toInt = p.m := toInt_ofInt_word _ (by omega) (by omega)
  have nl : p.outputs.nl.toNat = p.nl := Nat.mod_eq_of_lt (by omega)
  constructor
  case latZones => exact hz.imp (congrArg (BitVec.ofNat 8)) (congrArg (BitVec.ofNat 8))
  all_goals simp only [latNum, latZones, lonNum, lonZones, j, m, nl]
  all_goals omega

/-- Whatever the three frames hold, their position is legal: each number by the range of the step that computes it. -/
theorem resolvePair_legal (e o latest : CprFrame) (he : e.Fits) (ho : o.Fits) (hl : latest.Fits) :
    (resolvePair e o latest).Legal := by
  obtain ⟨heLat, heLon⟩ := he
  obtain ⟨hoLat, hoLon⟩ := ho
  obtain ⟨hlLat, hlLon⟩ := hl
  have hz : latZonesOf latest.parity = 60 ∨ latZonesOf latest.parity = 59 := by
    cases latest.parity
    · exact .inl rfl
    · exact .inr rfl
  have hpos : (0 : Int) < latZonesOf latest.parity := by omega
  have hnl := nlZones_range nlTable (resolvePair e o latest).latNum.natAbs (latZonesOf latest.parity) nlTable_rows
  have hni := zoneCount_range latest.parity (resolvePair e o latest).nl hnl.2
  exact {
    latZones := hz
    lat := wrapLat_range _ _ _ hpos (by omega) (by omega)
    lonZones := hni
    lon := wrapLon_range _ _ _ (Int.natCast_pos.2 hni.1) (by omega) (by omega)
    j := latIndex_range _ _ (by omega) (by omega) (by omega) (by omega)
    m := lonIndex_range _ _ _ (by omega) (by omega) (by omega) (by omega) (Int.ofNat_le.2 hnl.1) (Int.ofNat_le.2 hnl.2)
    nl := hnl }

theorem resolve_legal (a b : CprFrame) (ha : a.Fits) (hb : b.Fits) (p : Position) (h : resolve a b = some p) :
    p.Legal := by
  by_cases hp : a.parity = b.parity
  · rw [resolve_equal a b hp] at h
    cases h
  · rw [resolve_opposite a b hp] at h
    cases h
    split
    · exact resolvePair_legal a b b ha hb hb
    · exact resolvePair_legal b a b hb ha hb

/-- Whatever CPR_RESOLVE writes is legal. -/
theorem resolve_slots_outputsLegal (s : State) (o : CprOutputs)
    (h : (resolve (slotA s) (slotB s)).map Position.outputs = some o) : OutputsLegal o := by
  obtain ⟨p, hp, rfl⟩ := Option.map_eq_some_iff.1 h
  exact (resolve_legal _ _ (slotA_fits s) (slotB_fits s) p hp).outputs

theorem Parity.ofBit_injective : Function.Injective Parity.ofBit := by decide

end Sys2Proof.Machine

/-! The invariant under each update of the state; each lemma names the clauses that the update touches. -/

namespace Sys2Proof.Inv

open Sys2Proof.Machine

variable {s : State}

theorem setEvents (h : Inv s) (es : List Event) : Inv (s.setEvents es) := { h with }

theorem logRead (h : Inv s) (v : Word) : Inv (s.logRead v) := { h with }

theorem setResult (h : Inv s) (v : Nat) : Inv (s.setResult v) := { h with }

theorem fail (h : Inv s) (c : ErrorCode) : Inv (s.fail c) := { h with anyErr := fun _ => rfl }

theorem succeed (h : Inv s) : Inv s.succeed := { h with anyErr := fun hne => absurd rfl hne }

theorem clearErrors (h : Inv s) : Inv s.clearErrors := { h with anyErr := fun hne => absurd rfl hne }

theorem setCursor (h : Inv s) (off : Nat) (hoff : off ≤ 8 * s.frameMax) : Inv (s.setCursor off) :=
  { h with cursor := (Nat.mod_le off _).trans hoff }

theorem setRemainder (h : Inv s) (rem : Rem) : Inv (s.setRemainder rem) := { h with crcz := of_decide_eq_true }

theorem setPosition (h : Inv s) (o : Option CprOutputs) (ho : ∀ out, o = some out → OutputsLegal out) :
    Inv (s.setPosition o) :=
  { h with cprValid := rfl, outputs := ho }

/-- FRAME_MAX is the one register a reset keeps. -/
theorem resetBlock (h : Inv s) : Inv (resetBlock s) where
  frameMax := h.frameMax
  fbWf := reset_fb_wf
  fbRange := fun _ hc => absurd hc List.not_mem_nil
  cursor := Nat.zero_le _
  anyErr := fun hne => absurd rfl hne
  crcz := fun _ => rfl
  cprValid := rfl
  outputs := fun _ ho => nomatch ho

/-- A host write keeps every register the invariant speaks of but FB, where a window write stays canonical and within
FRAME_MAX. -/
theorem writeReg (h : Inv s) (w : Word) (r : PortReg) : Inv (writeReg w s r) := by
  have hfb : Memory.wf (Machine.writeReg w s r).fb ∧ ∀ c ∈ (Machine.writeReg w s r).fb, c.1 < s.frameMax := by
    rcases writeReg_fb w s r with hfb | ⟨k, -, hfb⟩ <;> rw [hfb]
    · exact ⟨h.fbWf, h.fbRange⟩
    · exact ⟨writeWindow_wf _ _ _ _ h.fbWf, mem_writeWindow _ _ _ _ h.fbRange⟩
  constructor
  case fbWf => exact hfb.1
  case fbRange => simpa using hfb.2
  case frameMax => simpa using h.frameMax
  case cursor => simpa using h.cursor
  case anyErr => simpa using h.anyErr
  case crcz => simpa using h.crcz
  case cprValid => simpa using h.cprValid
  case outputs => simpa using h.outputs

/-- A consumed field ends within the frame, and the frame fits FB. -/
theorem consumed (h : Inv s) (n : BitVec 6) (v : Nat) (hv : fetchField n s = .value v) : Inv (consumed n v s) := by
  obtain ⟨-, hlen, hbounds, -⟩ := fetchField_value n s v hv
  exact ((h.setResult v).setCursor _ (by simp only [State.setResult_frameMax]; omega)).succeed

theorem exec (h : Inv s) (i : Instr) (t : State) (hi : exec i s = .next t) : Inv t := by
  rcases exec_next i s t hi with
    ⟨c, -, rfl⟩ | ⟨n, v, -, hv, rfl⟩ | ⟨n, v, -, -, rfl⟩ | ⟨-, rfl⟩ | ⟨-, bytes, -, rfl⟩ | ⟨-, rfl⟩
  · exact h.fail c
  · exact h.consumed n v hv
  · exact (h.setResult v).succeed
  · exact (h.setCursor 0 (Nat.zero_le _)).clearErrors
  · exact (h.setRemainder _).succeed
  · exact (h.setPosition _ (resolve_slots_outputsLegal s)).succeed

theorem runCommand (h : Inv s) (w : Word) (t : State) (hw : runCommand w s = .next t) : Inv t := by
  rcases runCommand_next w s t hw with ⟨e, -, rfl⟩ | ⟨i, -, hi⟩
  · exact h.fail _
  · exact h.exec i t hi

theorem step (h : Inv s) (t : State) (hs : step s = .next t) : Inv t := by
  rcases step_next s t hs with
    ⟨-, rfl⟩ | ⟨rest, -, rfl⟩ | ⟨a, rest, -, rfl⟩ | ⟨a, w, rest, -, -, rfl⟩ | ⟨a, w, rest, -, -, hrun⟩
  · exact h
  · exact (h.setEvents rest).resetBlock
  · exact (h.setEvents rest).logRead _
  · exact (h.setEvents rest).writeReg w _
  · exact (h.setEvents rest).runCommand w t hrun

end Sys2Proof.Inv

namespace Sys2Proof.Claims

open Sys2Proof.Machine

/-- Settles O44, by the cases of a step: each is a chain of updates that keep the invariant. -/
theorem everyStepKeepsTheInvariant : Obligations.EveryStepKeepsTheInvariant := fun _ t h hs => h.step t hs

/-- Settles O26: opposite parities resolve, and what they resolve to is legal. -/
theorem resolverOutputsAreLegal : Obligations.ResolverOutputsAreLegal := by
  intro s hpar
  have hne : (slotA s).parity ≠ (slotB s).parity := Parity.ofBit_injective.ne hpar
  have hres := resolve_opposite (slotA s) (slotB s) hne
  have hout := congrArg (Option.map Position.outputs) hres
  exact ⟨_, _, rfl, hout, resolve_slots_outputsLegal s _ hout⟩

/-- Settles O29: a step that changes them is a reset or a command, and the command is CPR_RESOLVE. -/
theorem positionPersists : Obligations.PositionPersists := by
  intro s t h hchange
  rcases step_reset_or_exec_or_kept s t h with
    ⟨rest, he, -⟩ | ⟨a, w, rest, i, he, ha, hd, hi⟩ | ⟨-, hout, hvalid, -⟩
  · exact .inl ⟨rest, he⟩
  · by_cases hr : i = .cprResolve
    · exact .inr ⟨a, w, rest, he, ha, hr ▸ hd⟩
    · obtain ⟨hout, hvalid⟩ := exec_position i _ t hi hr
      exact hchange.elim (absurd hout) (absurd hvalid)
  · exact hchange.elim (absurd hout) (absurd hvalid)

/-- Settles O39: a step that clears ANYERR is a reset or a command, and the command is BEGIN, which has one word. -/
theorem onlyBeginClearsAnyErr : Obligations.OnlyBeginClearsAnyErr := by
  intro s t h hs ht
  rcases step_reset_or_exec_or_kept s t h with
    ⟨rest, he, -⟩ | ⟨a, w, rest, i, he, ha, hd, hi⟩ | ⟨-, -, -, hkept⟩
  · exact .inl ⟨rest, he⟩
  · by_cases hb : i = .beginFrame
    · subst hb
      obtain rfl := eq_of_decode_beginFrame w hd
      exact .inr ⟨a, rest, he, ha⟩
    · exact absurd (exec_anyErr i _ t hi hb hs) (by simp [ht])
  · exact absurd (hkept hs) (by simp [ht])

/-- Settles O40: a step that moves CURSOR is a reset or a command, and `exec_cursor` says which command and where to. -/
theorem onlyCursorCommandsMoveCursor : Obligations.OnlyCursorCommandsMoveCursor := by
  intro s t h hne
  rcases step_reset_or_exec_or_kept s t h with
    ⟨rest, he, rfl⟩ | ⟨a, w, rest, i, he, ha, hd, hi⟩ | ⟨hcur, -⟩
  · exact .inl ⟨rfl, rest, he⟩
  · refine .inr ⟨a, w, rest, he, ha, ?_⟩
    rcases exec_cursor i _ t hi with hcur | ⟨rfl, hzero⟩ | ⟨n, hcmd, hcur⟩
    · exact absurd hcur hne
    · exact .inl ⟨hzero, hd⟩
    · refine .inr ⟨n, ?_, hcur⟩
      rcases hcmd with rfl | rfl | rfl
      · exact .inl hd
      · exact .inr (.inl hd)
      · exact .inr (.inr hd)
  · exact absurd hcur hne

/-- Settles O41, by the cases of a step: besides a reset only a host write that stores can change the frame, and the
laws of `writeReg` say where. -/
theorem onlyTheHostWritesTheFrame : Obligations.OnlyTheHostWritesTheFrame := by
  intro s t h
  rcases step_next s t h with
    ⟨-, rfl⟩ | ⟨rest, he, -⟩ | ⟨a, rest, -, rfl⟩ | ⟨a, w, rest, he, -, rfl⟩ | ⟨a, w, rest, -, -, hrun⟩
  · exact ⟨fun i hi => absurd rfl hi, fun hf => absurd rfl hf⟩
  · exact ⟨fun i _ => .inl ⟨rest, he⟩, fun _ => .inl ⟨rest, he⟩⟩
  · exact ⟨fun i hi => absurd rfl hi, fun hf => absurd rfl hf⟩
  · refine ⟨fun i hi => .inr ⟨a, w, rest, he, writeReg_read_ne a w (s.setEvents rest) i hi⟩, fun hf => ?_⟩
    refine .inr ⟨a, w, rest, he, wordAt_of_portReg_flen a ?_⟩
    by_contra hr
    exact hf (writeReg_flen w _ _ hr)
  · obtain ⟨hfb, hflen⟩ := runCommand_fb_flen w _ t hrun
    exact ⟨fun i hi => absurd (by rw [hfb]; rfl) hi, fun hf => absurd hflen hf⟩

/-- Settles O5: the equations of `step`, `hostWrite`, `hostRead` and `runCommand` for an access to CMD. -/
theorem stepRunsTheWrittenCommand : Obligations.StepRunsTheWrittenCommand := by
  constructor
  · intro s a w rest i he ha hd
    calc step s = hostWrite a w (s.setEvents rest) := step_of_events_cons s _ rest he
      _ = runCommand w (s.setEvents rest) := hostWrite_of_cmd a w _ ((portReg_eq_cmd_iff_wordAt a).2 ha)
      _ = exec i (s.setEvents rest) := runCommand_of_decode_ok w i _ hd
  · intro s a rest he ha
    calc step s = .next (hostRead a (s.setEvents rest)) := step_of_events_cons s _ rest he
      _ = .next ((s.setEvents rest).logRead 0) := by rw [hostRead_of_cmd a _ ((portReg_eq_cmd_iff_wordAt a).2 ha)]

end Sys2Proof.Claims

/-! PROOFS for 20_memory.md: what a host read returns and a host write stores at each offset of the map, the offsets that
do nothing, and the FB window. -/

namespace Sys2Proof.Machine

open Sys2Proof.Claims

/-! Words as numbers and as bytes. -/

theorem toNat_append_eq_add {m n : Nat} (x : BitVec m) (y : BitVec n) :
    (x ++ y).toNat = x.toNat * 2 ^ n + y.toNat := by
  rw [BitVec.toNat_append, ← Nat.shiftLeft_add_eq_or_of_lt y.isLt, Nat.shiftLeft_eq]

theorem setWidth_eq_ofNat_mod {m : Nat} (x : BitVec m) (n : Nat) : x.setWidth n = BitVec.ofNat n (x.toNat % 2 ^ n) :=
  BitVec.eq_of_toNat_eq (by simp)

/-- The byte of a word at bit `p`, as its number. -/
theorem toNat_extractByte (w : Word) (p : Nat) : (w.extractLsb' p 8).toNat = w.toNat / 2 ^ p % 256 := by
  rw [BitVec.extractLsb'_toNat, Nat.shiftRight_eq_div_pow]

/-- A word is fixed by its four bytes. -/
theorem word_eq_of_bytes (v w : Word)
    (h : ∀ j, j < 4 → v.extractLsb' (24 - 8 * j) 8 = w.extractLsb' (24 - 8 * j) 8) : v = w := by
  have bytes : ∀ j, j < 4 → v.toNat / 2 ^ (24 - 8 * j) % 256 = w.toNat / 2 ^ (24 - 8 * j) % 256 := fun j hj => by
    rw [← toNat_extractByte, ← toNat_extractByte, h j hj]
  have h₀ := bytes 0 (by decide)
  have h₁ := bytes 1 (by decide)
  have h₂ := bytes 2 (by decide)
  have h₃ := bytes 3 (by decide)
  have hv := v.isLt
  have hw := w.isLt
  apply BitVec.eq_of_toNat_eq
  omega

/-- STATUS as a number: ERR, then its three flags (10_state.md R29). -/
theorem Status.toNat_toWord (st : Status) :
    st.toWord.toNat = st.err.code.toNat + 16 * st.anyErr.toNat + 32 * st.crcz.toNat + 64 * st.cprValid.toNat := by
  simp only [Status.toWord, toNat_append_eq_add, BitVec.toNat_ofBool, BitVec.toNat_ofNat]
  omega

/-- CAPS as a number; a legal FRAME_MAX fits its byte (10_state.md R30). -/
theorem toNat_capsWord (n : Nat) (h : Config.LegalFrameMax n) : (capsWord n).toNat = n + 256 := by
  obtain ⟨-, hmax⟩ := h
  simp only [capsWord, toNat_append_eq_add, BitVec.toNat_ofNat]
  omega

/-! What the map has at an offset (20_memory.md R61 to R64, R66). -/

theorem portReg_of_wordAt {a o : Nat} {r : PortReg} (h : wordAt a = o) (hr : portReg o = r) : portReg a = r :=
  (portReg_of_offset a o (wordAt_eq_wordOffset a ▸ h)).trans hr

/-- A word offset is one of 128: a property of them all holds at every offset. -/
theorem of_wordOffsets {P : Nat → PortReg → Prop} (h : ∀ q : Fin 128, P (4 * q.val) (portReg (4 * q.val))) (a : Nat) :
    P (wordAt a) (portReg a) := by
  have hq : wordAt a = 4 * (a % 512 / 4) := by unfold wordAt; omega
  rw [hq, portReg_wordOffset]
  exact h ⟨a % 512 / 4, by omega⟩

theorem portReg_of_reserved (a : Nat) (h : Reserved (wordAt a)) : portReg a = .reserved :=
  of_wordOffsets (P := fun o r => Reserved o → r = .reserved) (by unfold Reserved; decide) a h

/-- What ignores a host write: the read-only registers and the reserved offsets (20_memory.md R62, R63). -/
def writeIgnored : List PortReg :=
  [.status, .caps, .cursor, .result, .crcRem, .cprLatNum, .cprLatZones, .cprLonNum, .cprLonZones, .cprJ, .cprM, .cprNl,
    .reserved]

theorem portReg_mem_writeIgnored (a : Nat) (h : IgnoresWrites (wordAt a)) : portReg a ∈ writeIgnored :=
  of_wordOffsets (P := fun o r => IgnoresWrites o → r ∈ writeIgnored) (by unfold IgnoresWrites; decide) a h

theorem writeReg_of_mem_writeIgnored (w : Word) (s : State) (r : PortReg) (h : r ∈ writeIgnored) :
    writeReg w s r = s := by
  unfold writeIgnored at h
  fin_cases h <;> rfl

/-- A window offset names the word whose first byte has index `wordAt a - 0x100` (20_memory.md R64). -/
theorem portReg_of_wordAt_window (a : Nat) (h₁ : 0x100 ≤ wordAt a) (h₂ : wordAt a < 0x180) :
    ∃ k, portReg a = .fbWord k ∧ wordAt a - 0x100 = 4 * k := by
  have hmul : wordAt a % 4 = 0 := by unfold wordAt; omega
  refine ⟨(wordAt a - 0x100) / 4, ?_, by omega⟩
  rw [wordAt_eq_wordOffset] at h₁ h₂ ⊢
  exact portReg_window a h₁ h₂

/-! A step that takes a host read or a host write of a register (20_memory.md R60, R67, R68). -/

theorem readReg_setEvents (draw : Word) (s : State) (es : List Event) (r : PortReg) :
    readReg draw (s.setEvents es) r = readReg draw s r := by
  cases r <;> rfl

/-- The word that a host read of `a` returns in state `s`. -/
def wordRead (a : Nat) (s : State) : Word := readReg (Config.unspecifiedWord s.draws) s (portReg a)

theorem step_of_read (s : State) (a : Nat) (rest : List Event) (h : s.events = .read a :: rest) :
    step s = .next { s with events := rest, reads := s.reads ++ [wordRead a s], draws := s.draws + 1 } := by
  rw [step_of_events_cons s _ rest h]
  simp only [handleEvent, hostRead, readReg_setEvents]
  rfl

theorem step_of_write (s : State) (a : Nat) (w : Word) (rest : List Event) (h : s.events = .write a w :: rest)
    (r : PortReg) (hr : portReg a = r) (hcmd : r ≠ .cmd) : step s = .next (writeReg w (s.setEvents rest) r) := by
  subst hr
  rcases hostWrite_cases a w (s.setEvents rest) with ⟨hc, -⟩ | ⟨-, hw⟩
  · exact absurd hc hcmd
  · rw [step_of_events_cons s _ rest h]
    exact hw

theorem wordRead_of_portReg {a : Nat} {r : PortReg} (h : portReg a = r) (s : State) :
    wordRead a s = readReg (Config.unspecifiedWord s.draws) s r := by
  rw [wordRead, h]

/-- A host read returns what the register at the containing word's offset reads as. -/
theorem wordRead_of_wordAt {a o : Nat} {s : State} {v : Word}
    (hv : readReg (Config.unspecifiedWord s.draws) s (portReg o) = v) (h : wordAt a = o) : wordRead a s = v :=
  (wordRead_of_portReg (portReg_of_wordAt h rfl) s).trans hv

/-- A register of at most 32 bits reads as its number: its unused bits are 0 (20_memory.md R67). -/
theorem toNat_wordRead_of_setWidth {a o n : Nat} {s : State} (x : BitVec n) (hn : n ≤ 32)
    (hx : readReg (Config.unspecifiedWord s.draws) s (portReg o) = x.setWidth 32) (h : wordAt a = o) :
    (wordRead a s).toNat = x.toNat := by
  rw [wordRead_of_wordAt hx h, BitVec.toNat_setWidth_of_le hn]

/-! An output register that holds a value (10_state.md R35 to R37). -/

theorem outputWord_of_some (draw : Word) (s : State) (f : CprOutputs → Word) (out : CprOutputs)
    (h : s.cprOut = some out) :
    outputWord draw s f = f out := by
  simp only [outputWord, h]

theorem outputByte_of_some (draw : Word) (s : State) (f : CprOutputs → Byte) (out : CprOutputs)
    (h : s.cprOut = some out) :
    outputByte draw s f = (f out).setWidth 32 := by
  simp only [outputByte, h]

/-! The bytes of a window word (20_memory.md R64). -/

theorem extractByte_windowWord (draw : Word) (s : State) (k j : Nat) (hj : j < 4) :
    (windowWord draw s k).extractLsb' (24 - 8 * j) 8 = windowByte draw s k j := by
  have h₀ := (windowByte draw s k 0).isLt
  have h₁ := (windowByte draw s k 1).isLt
  have h₂ := (windowByte draw s k 2).isLt
  have h₃ := (windowByte draw s k 3).isLt
  apply BitVec.eq_of_toNat_eq
  simp only [toNat_extractByte, windowWord, toNat_append_eq_add]
  interval_cases j <;> omega

theorem windowByte_of_written (draw : Word) (s : State) (k j : Nat) (b : Byte) (h : 4 * k + j < s.frameMax)
    (hb : s.fb.read (4 * k + j) = some b) : windowByte draw s k j = b := by
  simp only [windowByte, h, hb, if_true]

theorem windowByte_beyond (draw : Word) (s : State) (k j : Nat) (h : s.frameMax ≤ 4 * k + j) :
    windowByte draw s k j = 0 :=
  if_neg (by omega)

theorem windowWord_beyond (draw : Word) (s : State) (k : Nat) (h : s.frameMax ≤ 4 * k) : windowWord draw s k = 0 := by
  apply word_eq_of_bytes
  intro j hj
  rw [extractByte_windowWord draw s k j hj, windowByte_beyond draw s k j (by omega)]
  simp

theorem writeWindowByte_beyond (m : Memory) (frameMax k j : Nat) (w : Word) (h : frameMax ≤ 4 * k + j) :
    writeWindowByte m frameMax k j w = m :=
  if_neg (by omega)

theorem writeWindow_beyond (m : Memory) (frameMax k : Nat) (w : Word) (h : frameMax ≤ 4 * k) :
    writeWindow m frameMax k w = m := by
  have beyond : ∀ j, writeWindowByte m frameMax k j w = m := fun j => writeWindowByte_beyond m frameMax k j w (by omega)
  simp only [writeWindow, List.foldl, beyond]

/-- Byte `j` of a window word after a write of that word. -/
theorem read_writeWindow_byte (m : Memory) (frameMax k j : Nat) (w : Word) (hj : j < 4) (h : 4 * k + j < frameMax) :
    (writeWindow m frameMax k w).read (4 * k + j) = some (w.extractLsb' (24 - 8 * j) 8) := by
  have hword : (4 * k + j) / 4 = k := by omega
  have hplace : (4 * k + j) % 4 = j := by omega
  rw [read_writeWindow, if_pos ⟨hword, h⟩, hplace]

/-- A word written below FRAME_MAX is the word read, whatever FB held. -/
theorem windowWord_writeReg (draw w : Word) (s : State) (k : Nat) (h : 4 * k + 3 < s.frameMax) :
    windowWord draw (writeReg w s (.fbWord k)) k = w := by
  apply word_eq_of_bytes
  intro j hj
  rw [extractByte_windowWord draw _ k j hj]
  have hbelow : 4 * k + j < s.frameMax := by omega
  exact windowByte_of_written draw _ k j _ hbelow (read_writeWindow_byte s.fb s.frameMax k j w hj hbelow)

/-- One step of a run. -/
theorem core_run_succ (n : Nat) (s t : State) (h : step s = .next t) : core.run (n + 1) s = core.run n t := by
  have hcore : core.step s = .next t := h
  simp only [Host.Core.run, hcore]

end Sys2Proof.Machine

namespace Sys2Proof.Claims

open Sys2Proof.Machine

/-- Settles O30, register by register: the map's entry, then the number the register reads as. -/
theorem hostReadsFollowTheMap : Obligations.HostReadsFollowTheMap := by
  intro s a rest hmax he
  refine ⟨wordRead a s, step_of_read s a rest he, ?status, ?caps, ?flen, ?cursor, ?arg0, ?arg1, ?result, ?crcRem,
    ?cprALat, ?cprALon, ?cprBLat, ?cprBLon, ?cprPar, fun out hout =>
      ⟨?cprLatNum, ?cprLatZones, ?cprLonNum, ?cprLonZones, ?cprJ, ?cprM, ?cprNl⟩⟩
  case status =>
    intro h
    rw [wordRead_of_wordAt (v := s.status.toWord) rfl h, Status.toNat_toWord]
  case caps =>
    intro h
    rw [wordRead_of_wordAt (v := capsWord s.frameMax) rfl h, toNat_capsWord s.frameMax hmax]
  case flen => exact toNat_wordRead_of_setWidth s.flen (by decide) rfl
  case cursor => exact toNat_wordRead_of_setWidth s.cursor (by decide) rfl
  case arg0 => exact wordRead_of_wordAt rfl
  case arg1 => exact wordRead_of_wordAt rfl
  case result => exact wordRead_of_wordAt rfl
  case crcRem => exact toNat_wordRead_of_setWidth s.crcRem (by decide) rfl
  case cprALat => exact toNat_wordRead_of_setWidth s.cprALat (by decide) rfl
  case cprALon => exact toNat_wordRead_of_setWidth s.cprALon (by decide) rfl
  case cprBLat => exact toNat_wordRead_of_setWidth s.cprBLat (by decide) rfl
  case cprBLon => exact toNat_wordRead_of_setWidth s.cprBLon (by decide) rfl
  case cprPar => exact toNat_wordRead_of_setWidth s.cprPar (by decide) rfl
  case cprLatNum => exact wordRead_of_wordAt (outputWord_of_some _ s _ out hout)
  case cprLonNum => exact wordRead_of_wordAt (outputWord_of_some _ s _ out hout)
  case cprJ => exact wordRead_of_wordAt (outputWord_of_some _ s _ out hout)
  case cprM => exact wordRead_of_wordAt (outputWord_of_some _ s _ out hout)
  case cprLatZones => exact toNat_wordRead_of_setWidth _ (by decide) (outputByte_of_some _ s _ out hout)
  case cprLonZones => exact toNat_wordRead_of_setWidth _ (by decide) (outputByte_of_some _ s _ out hout)
  case cprNl => exact toNat_wordRead_of_setWidth _ (by decide) (outputByte_of_some _ s _ out hout)

/-- Settles O31, register by register: the map's entry, then what `writeReg` stores there. -/
theorem hostWritesFollowTheMap : Obligations.HostWritesFollowTheMap := by
  intro s a w rest he
  have write : ∀ {o : Nat} {r : PortReg}, portReg o = r → r ≠ .cmd → wordAt a = o →
      step s = .next (writeReg w (s.setEvents rest) r) :=
    fun hr hcmd h => step_of_write s a w rest he _ (portReg_of_wordAt h hr) hcmd
  simp only [← setWidth_eq_ofNat_mod]
  exact ⟨write (r := .flen) rfl (by decide), write (r := .arg0) rfl (by decide), write (r := .arg1) rfl (by decide),
    write (r := .cprALat) rfl (by decide), write (r := .cprALon) rfl (by decide), write (r := .cprBLat) rfl (by decide),
    write (r := .cprBLon) rfl (by decide), write (r := .cprPar) rfl (by decide)⟩

/-- Settles O32: the map's entry there reads 0, and a write of it stores nothing. -/
theorem reservedOffsetsDoNothing : Obligations.ReservedOffsetsDoNothing := by
  constructor
  · intro s a rest he ho
    have hzero : wordRead a s = 0 := by
      rcases ho with hres | hcmd | ⟨h₁, h₂, hmax⟩
      · exact wordRead_of_portReg (portReg_of_reserved a hres) s
      · exact wordRead_of_portReg ((portReg_eq_cmd_iff_wordAt a).2 hcmd) s
      · obtain ⟨k, hr, hk⟩ := portReg_of_wordAt_window a h₁ h₂
        rw [wordRead_of_portReg hr]
        exact windowWord_beyond _ s k (hk ▸ hmax)
    rw [step_of_read s a rest he, hzero]
  · intro s a w rest he ho
    rcases ho with hign | ⟨h₁, h₂, hmax⟩
    · have hmem := portReg_mem_writeIgnored a hign
      rw [step_of_write s a w rest he _ rfl (ne_of_mem_of_not_mem hmem (by decide)),
        writeReg_of_mem_writeIgnored w _ _ hmem]
      rfl
    · obtain ⟨k, hr, hk⟩ := portReg_of_wordAt_window a h₁ h₂
      rw [step_of_write s a w rest he _ hr (by simp)]
      have hkeep := writeWindow_beyond s.fb s.frameMax k w (hk ▸ hmax)
      simp only [writeReg, State.setEvents_fb, State.setEvents_frameMax, hkeep]
      rfl

/-- Settles O33: the bytes of the word read, and each byte of FB after the word is written. -/
theorem windowIsPackedBigEndian : Obligations.WindowIsPackedBigEndian := by
  constructor
  · intro s a rest he h₁ h₂
    obtain ⟨k, hr, hk⟩ := portReg_of_wordAt_window a h₁ h₂
    refine ⟨wordRead a s, step_of_read s a rest he, fun j hj => ?_⟩
    rw [hk, ← toNat_extractByte, wordRead_of_portReg hr, readReg, extractByte_windowWord _ s k j hj]
    constructor
    · intro hmax
      rw [windowByte_beyond _ s k j hmax]
      rfl
    · intro b hlt hb
      rw [windowByte_of_written _ s k j b hlt hb]
  · intro s a w rest he h₁ h₂
    obtain ⟨k, hr, hk⟩ := portReg_of_wordAt_window a h₁ h₂
    refine ⟨_, step_of_write s a w rest he _ hr (by simp), rfl, ?_⟩
    rw [hk]
    constructor
    · intro j hj hlt
      rw [← Nat.shiftRight_eq_div_pow]
      exact read_writeWindow_byte s.fb s.frameMax k j w hj hlt
    · intro i hother
      refine (read_writeWindow s.fb s.frameMax k w i).trans (if_neg ?_)
      rintro ⟨hword, hlt⟩
      exact hother (i % 4) (by omega) (by omega) (by omega)

/-- Settles O34: the write, then the read of the state it leaves. -/
theorem windowReadsBackWhatWasWritten : Obligations.WindowReadsBackWhatWasWritten := by
  intro s a w rest he h₁ h₂ hmax
  obtain ⟨k, hr, hk⟩ := portReg_of_wordAt_window a h₁ h₂
  have hwrite := step_of_write s a w (.read a :: rest) he _ hr (by simp)
  have hread := step_of_read (writeReg w (s.setEvents (.read a :: rest)) (.fbWord k)) a rest rfl
  rw [wordRead_of_portReg hr, readReg, windowWord_writeReg _ w _ k (hk ▸ hmax)] at hread
  exact ⟨_, (core_run_succ 1 s _ hwrite).trans (core_run_succ 0 _ _ hread), rfl, rfl⟩

end Sys2Proof.Claims

/-! PROOFS for 30_encoding.md: the decoder and the opcode map, the checks on a command word, the error codes, and the
pseudo-instructions. -/

namespace Sys2Proof

open Sys2Proof.Machine Sys2Proof.Claims

/-! The three fields of a word, and the command they make (30_encoding.md R90, R94). -/

section
variable (r : BitVec 18) (n : BitVec 6) (op : Byte)

theorem toNat_fields : ((r ++ n) ++ op).toNat = r.toNat * 2 ^ 14 + n.toNat * 2 ^ 8 + op.toNat := by
  simp only [toNat_append_eq_add]
  omega

theorem rsvdOf_fields : rsvdOf ((r ++ n) ++ op) = r := by
  have hn := n.isLt
  have hop := op.isLt
  apply BitVec.eq_of_toNat_eq
  rw [rsvdOf_toNat, toNat_fields]
  omega

theorem widthOf_fields : widthOf ((r ++ n) ++ op) = n := by
  have hn := n.isLt
  have hop := op.isLt
  apply BitVec.eq_of_toNat_eq
  rw [widthOf_toNat, toNat_fields]
  omega

theorem opcodeOf_fields : opcodeOf ((r ++ n) ++ op) = op := by
  have hop := op.isLt
  apply BitVec.eq_of_toNat_eq
  rw [opcodeOf_toNat, toNat_fields]
  omega

@[simp] theorem rsvdOf_commandWord : rsvdOf (commandWord n op) = 0 := rsvdOf_fields 0 n op
@[simp] theorem widthOf_commandWord : widthOf (commandWord n op) = n := widthOf_fields 0 n op
@[simp] theorem opcodeOf_commandWord : opcodeOf (commandWord n op) = op := opcodeOf_fields 0 n op

end

/-- The OPCODE of a command's row (30_encoding.md R94). -/
def Instr.opcode (i : Instr) : Byte :=
  match i with
  | .take _ => 0x01
  | .peek _ => 0x02
  | .tag _ => 0x03
  | .verify _ => 0x04
  | .beginFrame => 0x08
  | .crcCompute => 0x10
  | .cprResolve => 0x20

/-- The WIDTH field of a command: 0 where it takes no width (30_encoding.md R90). -/
def Instr.width (i : Instr) : BitVec 6 := (cursorWidth i).getD 0

theorem encode_eq_commandWord (i : Instr) : encode i = commandWord i.width i.opcode := by
  cases i <;> rfl

/-- The decoder on each of its rows. -/
theorem decode_encode (i : Instr) : decode (encode i) = .ok i := by
  cases i <;> simp [decode, noWidth, encode]

/-- A word with the fields of a command is its word. -/
theorem eq_encode_of_fields (w : Word) (i : Instr) (hrsvd : rsvdOf w = 0) (hop : opcodeOf w = i.opcode)
    (hn : widthOf w = i.width) : w = encode i := by
  rw [encode_eq_commandWord]
  exact word_ext _ _ (by simp [hrsvd]) (by simp [hn]) (by simp [hop])

/-- A word decodes to a command exactly when its fields are the command's. -/
theorem decode_eq_ok_iff (w : Word) (i : Instr) :
    decode w = .ok i ↔ rsvdOf w = 0 ∧ opcodeOf w = i.opcode ∧ widthOf w = i.width := by
  constructor
  · intro h
    obtain ⟨hrsvd, hrow⟩ := decode_ok w i h
    refine ⟨hrsvd, ?_⟩
    rcases hrow with
      ⟨hop, rfl⟩ | ⟨hop, rfl⟩ | ⟨hop, rfl⟩ | ⟨hop, rfl⟩ | ⟨hop, hn, rfl⟩ | ⟨hop, hn, rfl⟩ | ⟨hop, hn, rfl⟩
    iterate 4 exact ⟨hop, rfl⟩
    all_goals exact ⟨hop, hn⟩
  · rintro ⟨hrsvd, hop, hn⟩
    rw [eq_encode_of_fields w i hrsvd hop hn, decode_encode]

theorem encode_of_decode (w : Word) (i : Instr) (h : decode w = .ok i) : encode i = w := by
  obtain ⟨hrsvd, hop, hn⟩ := (decode_eq_ok_iff w i).1 h
  exact (eq_encode_of_fields w i hrsvd hop hn).symm

/-- Under the mask of the cursor commands' rows, which leaves WIDTH out, a word is its RSVD and its OPCODE. -/
theorem and_cursorMask (w : Word) : w &&& 0xFFFFC0FF = (rsvdOf w ++ 0#6) ++ opcodeOf w := by
  have hmask : (0xFFFFC0FF : Word) = (BitVec.allOnes 18 ++ BitVec.zero 6) ++ BitVec.allOnes 8 := by decide
  calc w &&& 0xFFFFC0FF
      = ((rsvdOf w ++ widthOf w) ++ opcodeOf w) &&& ((BitVec.allOnes 18 ++ BitVec.zero 6) ++ BitVec.allOnes 8) := by
        rw [word_fields, hmask]
    _ = ((rsvdOf w &&& BitVec.allOnes 18) ++ (widthOf w &&& BitVec.zero 6)) ++ (opcodeOf w &&& BitVec.allOnes 8) := by
        rw [← BitVec.and_append, ← BitVec.and_append]
    _ = (rsvdOf w ++ 0#6) ++ opcodeOf w := by
        rw [BitVec.and_allOnes, BitVec.and_allOnes, BitVec.zero_eq, BitVec.and_zero]

theorem and_cursorMask_eq_iff (w : Word) (op : Byte) :
    w &&& 0xFFFFC0FF = commandWord 0 op ↔ rsvdOf w = 0 ∧ opcodeOf w = op := by
  rw [and_cursorMask]
  constructor
  · intro h
    have hrsvd := congrArg rsvdOf h
    have hop := congrArg opcodeOf h
    rw [rsvdOf_fields, rsvdOf_commandWord] at hrsvd
    rw [opcodeOf_fields, opcodeOf_commandWord] at hop
    exact ⟨hrsvd, hop⟩
  · rintro ⟨hrsvd, rfl⟩
    rw [hrsvd]
    rfl

/-- The match of a command's row is its word with WIDTH = 0 (30_encoding.md R94). -/
theorem row_match (i : Instr) : (Laws.TableRow.row i).1 = commandWord 0 i.opcode := by
  cases i <;> simp only [Laws.TableRow.row, Instr.opcode] <;> decide

theorem widthOf_eq_iff (w : Word) (n : BitVec 6) : widthOf w = n ↔ n.toNat = w.toNat / 2 ^ 8 % 2 ^ 6 := by
  rw [← widthOf_toNat, BitVec.toNat_inj, eq_comm]

/-- A word decodes to a command exactly when it has the row's match under the mask that leaves WIDTH out, and the
command's width. -/
theorem decode_eq_ok_iff_mask (w : Word) (i : Instr) :
    decode w = .ok i ↔
      w &&& 0xFFFFC0FF = (Laws.TableRow.row i).1 ∧ i.width.toNat = w.toNat / 2 ^ 8 % 2 ^ 6 := by
  rw [decode_eq_ok_iff, row_match, and_cursorMask_eq_iff, widthOf_eq_iff, and_assoc]

/-- Under the full mask a word is the row's match when it is the command's word. -/
theorem decode_eq_ok_iff_fullMask (w : Word) (i : Instr) : decode w = .ok i ↔ w &&& 0xFFFFFFFF = encode i := by
  have hfull : w &&& 0xFFFFFFFF = w := BitVec.and_allOnes
  rw [hfull]
  exact ⟨fun h => (encode_of_decode w i h).symm, fun h => h ▸ decode_encode i⟩

/-! The words the decoder rejects (30_encoding.md R95). -/

/-- The fields of a decoded word as numbers. -/
theorem toNat_of_decode {w : Word} {i : Instr} (h : decode w = .ok i) :
    w.toNat / 2 ^ 14 = 0 ∧ w.toNat % 2 ^ 8 = i.opcode.toNat ∧ w.toNat / 2 ^ 8 % 2 ^ 6 = i.width.toNat := by
  obtain ⟨hrsvd, hop, hn⟩ := (decode_eq_ok_iff w i).1 h
  rw [← rsvdOf_toNat, ← opcodeOf_toNat, ← widthOf_toNat, hrsvd, hop, hn]
  exact ⟨rfl, rfl, rfl⟩

theorem not_illegalWord_of_decode {w : Word} {i : Instr} (h : decode w = .ok i) : ¬IllegalWord w := by
  obtain ⟨hrsvd, hop, hn⟩ := toNat_of_decode h
  unfold IllegalWord
  rw [hrsvd, hop, hn]
  cases i <;> simp [Instr.opcode, Instr.width, cursorWidth]

theorem exists_decode_of_not_illegalWord (w : Word) (h : ¬IllegalWord w) : ∃ i, decode w = .ok i := by
  simp only [IllegalWord, not_or, not_and, not_not] at h
  obtain ⟨hrsvd, hop, hn⟩ := h
  simp only [List.mem_cons, List.not_mem_nil, or_false] at hop hn
  have hr : rsvdOf w = 0 := BitVec.eq_of_toNat_eq (by rw [rsvdOf_toNat, hrsvd]; rfl)
  have opcode : ∀ op : Byte, w.toNat % 2 ^ 8 = op.toNat → opcodeOf w = op := fun op hw =>
    BitVec.eq_of_toNat_eq (by rw [opcodeOf_toNat, hw])
  have width : _ → widthOf w = 0 := fun hw =>
    BitVec.eq_of_toNat_eq (by rw [widthOf_toNat, hn hw]; rfl)
  rcases hop with hw | hw | hw | hw | hw | hw | hw
  · exact ⟨.take (widthOf w), (decode_eq_ok_iff _ _).2 ⟨hr, opcode 0x01 hw, rfl⟩⟩
  · exact ⟨.peek (widthOf w), (decode_eq_ok_iff _ _).2 ⟨hr, opcode 0x02 hw, rfl⟩⟩
  · exact ⟨.tag (widthOf w), (decode_eq_ok_iff _ _).2 ⟨hr, opcode 0x03 hw, rfl⟩⟩
  · exact ⟨.verify (widthOf w), (decode_eq_ok_iff _ _).2 ⟨hr, opcode 0x04 hw, rfl⟩⟩
  · exact ⟨.beginFrame, (decode_eq_ok_iff _ _).2 ⟨hr, opcode 0x08 hw, width (.inl hw)⟩⟩
  · exact ⟨.crcCompute, (decode_eq_ok_iff _ _).2 ⟨hr, opcode 0x10 hw, width (.inr (.inl hw))⟩⟩
  · exact ⟨.cprResolve, (decode_eq_ok_iff _ _).2 ⟨hr, opcode 0x20 hw, width (.inr (.inr hw))⟩⟩

/-- The decoder rejects exactly the illegal words. -/
theorem decode_error_iff (w : Word) : (∃ e, decode w = .error e) ↔ IllegalWord w := by
  constructor
  · rintro ⟨e, he⟩
    by_contra hlegal
    obtain ⟨i, hi⟩ := exists_decode_of_not_illegalWord w hlegal
    rw [hi] at he
    cases he
  · intro h
    cases hd : decode w with
    | error e => exact ⟨e, rfl⟩
    | ok i => exact absurd h (not_illegalWord_of_decode hd)

end Sys2Proof

namespace Sys2Proof.Machine

open Sys2Proof.Claims

theorem runCommand_of_illegalWord (w : Word) (s : State) (h : IllegalWord w) :
    runCommand w s = .next (failed .illegalCommand s) := by
  obtain ⟨e, he⟩ := (decode_error_iff w).2 h
  simp only [runCommand, he]
  rfl

/-- An error of the fetch ends a cursor command, whichever it is (60_exceptions.md R241). -/
theorem exec_of_fetchField_raises {i : Instr} {n : BitVec 6} {s : State} {c : ErrorCode} (hi : cursorWidth i = some n)
    (h : fetchField n s = .raises c) : exec i s = .next (failed c s) := by
  cases i with
  | take m | peek m | tag m | verify m =>
    obtain rfl := Option.some.inj hi
    simp only [exec, execTake, execPeek, execTag, execVerify, h, withOperand]
    rfl
  | beginFrame | crcCompute | cprResolve => cases hi

theorem exec_of_illegalWidth {i : Instr} {n : BitVec 6} (s : State) (hi : cursorWidth i = some n)
    (h : ¬LegalWidth n) : exec i s = .next (failed .illegalWidth s) :=
  exec_of_fetchField_raises hi (fetchField_illegalWidth n s h)

/-- The check of the width, made in front of a cursor command, changes nothing: the command begins with it (log 7). -/
theorem ite_illegalWidth_exec {i : Instr} {n : BitVec 6} (s : State) (hi : cursorWidth i = some n) :
    (if n.toNat < 1 ∨ n.toNat > 32 then .next (failed .illegalWidth s) else exec i s) = exec i s := by
  split
  next h => exact (exec_of_illegalWidth s hi (by simp only [LegalWidth]; omega)).symm
  next => rfl

/-! The field of a cursor command, as the sum of 00_scope.md R9. -/

theorem frameBitOf_eq_toNat (byte : Nat → Byte) (p : Nat) :
    frameBitOf byte p = ((byte (p / 8)).getLsbD (7 - p % 8)).toNat := by
  rw [frameBitOf, BitVec.getLsbD, Nat.toNat_testBit]

/-- One more bit at the end of a field doubles what was there. -/
theorem fieldOf_succ (byte : Nat → Byte) (off n : Nat) :
    fieldOf byte off (n + 1) = 2 * fieldOf byte off n + frameBitOf byte (off + n) := by
  unfold fieldOf
  rw [Finset.sum_range_succ, Finset.mul_sum]
  congr 1
  · refine Finset.sum_congr rfl fun i hi => ?_
    have hexp : n + 1 - 1 - i = (n - 1 - i) + 1 := by have := Finset.mem_range.1 hi; omega
    rw [hexp, pow_succ]
    ring
  · simp

/-- Over written bytes the model's field is the spec's sum. -/
theorem bits_eq_fieldOf (m : Memory) (byte : Nat → Byte) (off n : Nat)
    (h : ∀ k, k < n → m.read ((off + k) / 8) = some (byte ((off + k) / 8))) :
    bits m off n = .ok (fieldOf byte off n) := by
  induction n with
  | zero => rfl
  | succ n ih =>
    have hbit := frameBit_eq m (off + n) _ (h n (by omega))
    rw [bits_succ m off n _ _ (ih fun k hk => h k (by omega)) hbit, fieldOf_succ, frameBitOf_eq_toNat]

/-- A field that was read has touched written bytes only. -/
theorem isSome_read_of_bits_ok (m : Memory) (off n v : Nat) (h : bits m off n = .ok v) (k : Nat) (hk : k < n) :
    (m.read ((off + k) / 8)).isSome = true := by
  induction n generalizing v with
  | zero => omega
  | succ n ih =>
    simp only [bits] at h
    split at h
    · cases h
    · rename_i u hu
      split at h
      · cases h
      · rename_i b hb
        rcases Nat.lt_succ_iff_lt_or_eq.1 hk with hlt | rfl
        · exact ih u hu hlt
        · by_contra hnone
          rw [Option.not_isSome_iff_eq_none] at hnone
          rw [(frameBit_error_iff m (off + k) _).2 ⟨hnone, rfl⟩] at hb
          cases hb

/-- A cursor command's fetch answers the field exactly when every check passes and every byte it touches is written. -/
theorem fetchField_eq_value_iff (n : BitVec 6) (s : State) (v : Nat) :
    fetchField n s = .value v ↔ ∃ byte, FieldReady n s byte ∧ fieldOf byte s.cursor.toNat n.toNat = v := by
  constructor
  · intro h
    obtain ⟨hw, hl, hb, hv⟩ := fetchField_value n s v h
    have ready : FieldReady n s fun i => (s.fb.read i).getD 0 := ⟨hw, hl, hb, fun k hk => by
      obtain ⟨b, hread⟩ := Option.isSome_iff_exists.1 (isSome_read_of_bits_ok _ _ _ _ hv k hk)
      rw [hread, Option.getD_some]⟩
    exact ⟨_, ready, Except.ok.inj ((bits_eq_fieldOf _ _ _ _ ready.written).symm.trans hv)⟩
  · rintro ⟨byte, ⟨hw, hl, hb, hwritten⟩, rfl⟩
    rw [fetchField_read n s hw hl hb, bits_eq_fieldOf _ _ _ _ hwritten]
    rfl

/-! Which command raises which code (60_exceptions.md R242 to R248). -/

theorem fetchField_eq_raises_iff (n : BitVec 6) (s : State) (c : ErrorCode) :
    fetchField n s = .raises c ↔
      (c = .illegalWidth ∧ ¬LegalWidth n) ∨
      (c = .badLength ∧ LegalWidth n ∧ s.frameMax < s.flen.toNat) ∨
      (c = .truncated ∧ LegalWidth n ∧ s.flen.toNat ≤ s.frameMax ∧
        8 * s.flen.toNat < s.cursor.toNat + n.toNat) := by
  constructor
  · intro h
    rcases fetchField_cases n s with ⟨he, hc⟩ | ⟨he, hc⟩ | ⟨he, hc⟩ | ⟨he, -⟩ <;> rw [he] at h
    · cases h
      exact .inl ⟨rfl, hc⟩
    · cases h
      exact .inr (.inl ⟨rfl, hc⟩)
    · cases h
      exact .inr (.inr ⟨rfl, hc⟩)
    · exact absurd h (Operand.ofRead_ne_raises _ _)
  · rintro (⟨rfl, hw⟩ | ⟨rfl, hw, hl⟩ | ⟨rfl, hw, hl, hb⟩)
    · exact fetchField_illegalWidth n s hw
    · exact fetchField_badLength n s hw hl
    · exact fetchField_truncated n s hw hl hb

theorem fetchFrame_eq_raises_iff (s : State) (c : ErrorCode) :
    fetchFrame s = .raises c ↔
      (c = .badLength ∧ s.frameMax < s.flen.toNat) ∨
      (c = .crcInputTooShort ∧ s.flen.toNat ≤ s.frameMax ∧ s.flen.toNat < 3) := by
  constructor
  · intro h
    rcases fetchFrame_cases s with ⟨he, hc⟩ | ⟨he, hc⟩ | ⟨he, -⟩ <;> rw [he] at h
    · cases h
      exact .inl ⟨rfl, hc⟩
    · cases h
      exact .inr ⟨rfl, hc⟩
    · exact absurd h (Operand.ofRead_ne_raises _ _)
  · rintro (⟨rfl, hl⟩ | ⟨rfl, hl, h3⟩)
    · exact if_pos hl
    · exact (if_neg (by omega)).trans (if_pos h3)

theorem exec_tag_of_mismatch {n : BitVec 6} {s : State} {v : Nat} (hv : fetchField n s = .value v)
    (hne : v ≠ s.arg0.toNat) : exec (.tag n) s = .next (failed .unexpectedValue s) := by
  simp only [exec, execTag, hv, withOperand, hne, if_false]
  rfl

theorem exec_verify_of_out_of_range {n : BitVec 6} {s : State} {v : Nat} (hv : fetchField n s = .value v)
    (hne : ¬(s.arg0.toNat ≤ v ∧ v ≤ s.arg1.toNat)) :
    exec (.verify n) s = .next (failed .constraintViolation s) := by
  simp only [exec, execVerify, hv, withOperand, hne, if_false]
  rfl

theorem exec_crcCompute_of_raises {s : State} {c : ErrorCode} (h : fetchFrame s = .raises c) :
    exec .crcCompute s = .next (failed c s) := by
  simp only [exec, execCrcCompute, h, withOperand]
  rfl

/-- The command raises this code: `Raises` of a decoded word. -/
def ExecRaises (i : Instr) (s : State) (c : ErrorCode) : Prop := ∃ t, exec i s = .next t ∧ t.status.err = c

/-- Every way a command raises an error: its fetch does, or TAG or VERIFY reads a field that does not match. -/
theorem execRaises_iff (i : Instr) (s : State) (c : ErrorCode) (hc : c ≠ .none) :
    ExecRaises i s c ↔
      (∃ n, cursorWidth i = some n ∧ fetchField n s = .raises c) ∨
      (i = .crcCompute ∧ fetchFrame s = .raises c) ∨
      (c = .unexpectedValue ∧ ∃ n v, i = .tag n ∧ fetchField n s = .value v ∧ v ≠ s.arg0.toNat) ∨
      (c = .constraintViolation ∧
        ∃ n v, i = .verify n ∧ fetchField n s = .value v ∧ ¬(s.arg0.toNat ≤ v ∧ v ≤ s.arg1.toNat)) := by
  constructor
  · rintro ⟨t, ht, rfl⟩
    cases i with
    | take n =>
      rcases execTake_next n s t ht with ⟨c, hf, rfl⟩ | ⟨v, -, rfl⟩
      · exact .inl ⟨n, rfl, hf⟩
      · exact absurd rfl hc
    | peek n =>
      rcases execPeek_next n s t ht with ⟨c, hf, rfl⟩ | ⟨v, -, rfl⟩
      · exact .inl ⟨n, rfl, hf⟩
      · exact absurd rfl hc
    | tag n =>
      rcases execTag_next n s t ht with ⟨c, hf, rfl⟩ | ⟨v, hv, hne, rfl⟩ | ⟨v, -, -, rfl⟩
      · exact .inl ⟨n, rfl, hf⟩
      · exact .inr (.inr (.inl ⟨rfl, n, v, rfl, hv, hne⟩))
      · exact absurd rfl hc
    | verify n =>
      rcases execVerify_next n s t ht with ⟨c, hf, rfl⟩ | ⟨v, hv, hne, rfl⟩ | ⟨v, -, -, rfl⟩
      · exact .inl ⟨n, rfl, hf⟩
      · exact .inr (.inr (.inr ⟨rfl, n, v, rfl, hv, hne⟩))
      · exact absurd rfl hc
    | beginFrame =>
      cases ht
      exact absurd rfl hc
    | crcCompute =>
      rcases execCrcCompute_next s t ht with ⟨c, hf, rfl⟩ | ⟨bytes, -, rfl⟩
      · exact .inr (.inl ⟨rfl, hf⟩)
      · exact absurd rfl hc
    | cprResolve =>
      cases ht
      exact absurd rfl hc
  · rintro (⟨n, hn, hf⟩ | ⟨rfl, hf⟩ | ⟨rfl, n, v, rfl, hv, hne⟩ | ⟨rfl, n, v, rfl, hv, hne⟩)
    · exact ⟨_, exec_of_fetchField_raises hn hf, rfl⟩
    · exact ⟨_, exec_crcCompute_of_raises hf, rfl⟩
    · exact ⟨_, exec_tag_of_mismatch hv hne, rfl⟩
    · exact ⟨_, exec_verify_of_out_of_range hv hne, rfl⟩

/-- Every way a command word raises a code: it is illegal, or its command raises. -/
theorem raises_iff (w : Word) (s : State) (c : ErrorCode) :
    Raises w s c ↔ (c = .illegalCommand ∧ IllegalWord w) ∨ ∃ i, decode w = .ok i ∧ ExecRaises i s c := by
  constructor
  · rintro ⟨t, ht, rfl⟩
    rcases runCommand_next w s t ht with ⟨e, he, rfl⟩ | ⟨i, hi, hexec⟩
    · exact .inl ⟨rfl, (decode_error_iff w).1 ⟨e, he⟩⟩
    · exact .inr ⟨i, hi, t, hexec, rfl⟩
  · rintro (⟨rfl, hw⟩ | ⟨i, hi, t, ht, hc⟩)
    · exact ⟨_, runCommand_of_illegalWord w s hw, rfl⟩
    · exact ⟨t, (runCommand_of_decode_ok w i s hi).trans ht, hc⟩

/-! The words and offsets of the pseudo-instructions (30_encoding.md R104, R105). -/

theorem widthWord_eq_commandWord (n : BitVec 6) (op : Byte) :
    Program.widthWord n.toNat (op.setWidth 32) = commandWord n op := by
  have hn := n.isLt
  have hop := op.isLt
  have hword : (commandWord n op).toNat = (0 : BitVec 18).toNat * 2 ^ 14 + n.toNat * 2 ^ 8 + op.toNat :=
    toNat_fields 0 n op
  have hshift : (BitVec.ofNat 32 n.toNat <<< 8).toNat = n.toNat <<< 8 := by
    rw [BitVec.toNat_shiftLeft, BitVec.toNat_ofNat, Nat.shiftLeft_eq, Nat.shiftLeft_eq]
    omega
  apply BitVec.eq_of_toNat_eq
  rw [hword, Program.widthWord, BitVec.toNat_or, hshift, BitVec.toNat_setWidth_of_le (by decide),
    ← Nat.shiftLeft_add_eq_or_of_lt hop, Nat.shiftLeft_eq]
  simp

/-- A pseudo-instruction's write of CMD is the write of its command's word (30_encoding.md R105). -/
theorem wr_cmd_widthWord (n : BitVec 6) (op : Byte) :
    Program.wr .cmd (Program.widthWord n.toNat (op.setWidth 32)) = .write 0 (commandWord n op) :=
  congrArg (Event.write 0) (widthWord_eq_commandWord n op)

/-- The port finds a register at its offset (20_memory.md R62). -/
theorem portReg_offsetOf (r : PortReg) (h : ∀ k, r = .fbWord k → k < 32) : portReg (Program.offsetOf r) = r := by
  cases r with
  | fbWord k =>
    have window : ∀ q : Fin 32, portReg (0x100 + 4 * q.val) = .fbWord q.val := by decide
    exact window ⟨k, h k rfl⟩
  | _ => rfl

theorem step_of_wr (s : State) (r : PortReg) (w : Word) (rest : List Event) (h : s.events = Program.wr r w :: rest)
    (hk : ∀ k, r = .fbWord k → k < 32) (hcmd : r ≠ .cmd) : step s = .next (writeReg w (s.setEvents rest) r) :=
  step_of_write s _ w rest h r (portReg_offsetOf r hk) hcmd

/-! The accesses of `frame` (30_encoding.md R105). -/

/-- A run goes on from where its first part ends. -/
theorem core_run_add (m n : Nat) (s t : State) (h : core.run m s = .next t) : core.run (m + n) s = core.run n t := by
  induction m generalizing s with
  | zero =>
    cases h
    rw [Nat.zero_add]
  | succ m ih =>
    cases hs : step s with
    | next u =>
      rw [core_run_succ m s u hs] at h
      rw [Nat.add_right_comm, core_run_succ (m + n) s u hs, ih u h]
    | fault f =>
      have hcore : core.step s = .fault f := hs
      simp only [Host.Core.run, hcore] at h
      cases h
    | refused r =>
      have hcore : core.step s = .refused r := hs
      simp only [Host.Core.run, hcore] at h
      cases h

/-- A shifted byte of a packed word as a number. -/
theorem toNat_shiftedByte (b : Byte) (p : Nat) (hp : p ≤ 24) : (b.setWidth 32 <<< p).toNat = 2 ^ p * b.toNat := by
  have hb := b.isLt
  have hpow : 2 ^ p ≤ 2 ^ 24 := Nat.pow_le_pow_right (by decide) hp
  rw [BitVec.toNat_shiftLeft, BitVec.toNat_setWidth_of_le (by decide), Nat.shiftLeft_eq, Nat.mul_comm]
  apply Nat.mod_eq_of_lt
  calc 2 ^ p * b.toNat ≤ 2 ^ 24 * b.toNat := Nat.mul_le_mul_right _ hpow
    _ < 2 ^ 32 := by omega

/-- A packed word as a number: the bytes have bits of their own, so OR is addition (30_encoding.md R105). -/
theorem toNat_packWord (b0 b1 b2 b3 : Byte) :
    (Program.packWord b0 b1 b2 b3).toNat =
      2 ^ 24 * b0.toNat + 2 ^ 16 * b1.toNat + 2 ^ 8 * b2.toNat + b3.toNat := by
  have h1 := b1.isLt
  have h2 := b2.isLt
  have h3 := b3.isLt
  have high : 2 ^ 24 * b0.toNat + 2 ^ 16 * b1.toNat = 2 ^ 16 * (2 ^ 8 * b0.toNat + b1.toNat) := by ring
  have low : 2 ^ 16 * (2 ^ 8 * b0.toNat + b1.toNat) + 2 ^ 8 * b2.toNat =
      2 ^ 8 * (2 ^ 8 * (2 ^ 8 * b0.toNat + b1.toNat) + b2.toNat) := by ring
  simp only [Program.packWord, BitVec.toNat_or, toNat_shiftedByte _ _ (Nat.le_refl 24),
    toNat_shiftedByte _ 16 (by decide), toNat_shiftedByte _ 8 (by decide),
    BitVec.toNat_setWidth_of_le (by decide : 8 ≤ 32)]
  rw [← Nat.two_pow_add_eq_or_of_lt (by omega), high, ← Nat.two_pow_add_eq_or_of_lt (by omega), low,
    ← Nat.two_pow_add_eq_or_of_lt (by omega)]

/-- Byte `j` of a packed word. -/
theorem extractByte_packWord (b : Nat → Byte) (j : Nat) (hj : j < 4) :
    (Program.packWord (b 0) (b 1) (b 2) (b 3)).extractLsb' (24 - 8 * j) 8 = b j := by
  have h0 := (b 0).isLt
  have h1 := (b 1).isLt
  have h2 := (b 2).isLt
  have h3 := (b 3).isLt
  apply BitVec.eq_of_toNat_eq
  rw [toNat_extractByte, toNat_packWord]
  interval_cases j <;> omega

/-- The word of a frame's first four bytes, 0 where there is none (30_encoding.md R105). -/
def firstWord (bs : List Byte) : Word := Program.packWord (bs.getD 0 0) (bs.getD 1 0) (bs.getD 2 0) (bs.getD 3 0)

theorem extractByte_firstWord (bs : List Byte) (j : Nat) (hj : j < 4) :
    (firstWord bs).extractLsb' (24 - 8 * j) 8 = bs.getD j 0 :=
  extractByte_packWord (fun j => bs.getD j 0) j hj

/-- The first window write of a frame. -/
theorem frameWords_of_ne_nil (k : Nat) (bs : List Byte) (h : bs ≠ []) :
    Program.frameWords k bs =
      Program.wr (.fbWord k) (firstWord bs) :: Program.frameWords (k + 1) (bs.drop 4) := by
  match bs with
  | [] => exact absurd rfl h
  | [_] => rfl
  | [_, _] => rfl
  | [_, _, _] => rfl
  | _ :: _ :: _ :: _ :: _ => rfl

/-- FB after the window writes of `bs` from word `k` on: the bytes, 0 up to the end of the last word, and every other
byte as before. -/
def Loaded (frameMax k : Nat) (bs : List Byte) (m m' : Memory) : Prop :=
  ∀ i, m'.read i =
    if k ≤ i / 4 ∧ i / 4 < k + (bs.length + 3) / 4 ∧ i < frameMax then some (bs.getD (i - 4 * k) 0) else m.read i

theorem Loaded.nil (frameMax k : Nat) (m : Memory) : Loaded frameMax k [] m m := fun i => by
  rw [if_neg]
  simp only [List.length_nil]
  omega

/-- A window write, and then the writes of the words after it. -/
theorem Loaded.cons {frameMax k : Nat} {bs : List Byte} {m m' : Memory} (hne : bs ≠ [])
    (h : Loaded frameMax (k + 1) (bs.drop 4) (writeWindow m frameMax k (firstWord bs)) m') :
    Loaded frameMax k bs m m' := by
  intro i
  have hlen := List.length_pos_iff.2 hne
  rw [h i, read_writeWindow, List.length_drop]
  rcases Nat.lt_trichotomy (i / 4) k with hlt | rfl | hgt
  · rw [if_neg (by omega), if_neg (by omega), if_neg (by omega)]
  · have hbyte := extractByte_firstWord bs (i % 4) (by omega)
    have hplace : i - 4 * (i / 4) = i % 4 := by omega
    rw [if_neg (by omega), hbyte, hplace]
    exact if_congr (by omega) rfl rfl
  · have hdrop : (bs.drop 4).getD (i - 4 * (k + 1)) 0 = bs.getD (i - 4 * k) 0 := by
      have hplace : 4 + (i - 4 * (k + 1)) = i - 4 * k := by omega
      rw [List.getD_eq_getElem?_getD, List.getElem?_drop, hplace, List.getD_eq_getElem?_getD]
    rw [if_neg (c := i / 4 = k ∧ _) (by omega), hdrop]
    exact if_congr (by omega) rfl rfl

/-- The window writes of a frame, run to their end: they load its bytes and write nothing else. -/
theorem run_frameWords (k : Nat) (bs : List Byte) (s : State) (rest : List Event) (hk : 4 * k + bs.length ≤ 128)
    (he : s.events = Program.frameWords k bs ++ rest) :
    ∃ m, Loaded s.frameMax k bs s.fb m ∧
      core.run (Program.frameWords k bs).length s = .next { s with events := rest, fb := m } := by
  induction hn : bs.length using Nat.strong_induction_on generalizing k bs s with
  | _ n ih =>
    subst hn
    by_cases hne : bs = []
    · subst hne
      refine ⟨s.fb, Loaded.nil _ k _, ?_⟩
      have hrest : s.events = rest := he
      rw [← hrest]
      rfl
    · have hlen := List.length_pos_iff.2 hne
      rw [frameWords_of_ne_nil k bs hne] at he ⊢
      have hstep := step_of_wr s _ _ _ he (fun j hj => by cases hj; omega) (by simp)
      obtain ⟨m, hm, hrun⟩ := ih (bs.drop 4).length (by rw [List.length_drop]; omega) (k + 1) (bs.drop 4)
        (writeReg _ (s.setEvents _) (.fbWord k)) (by rw [List.length_drop]; omega) rfl rfl
      exact ⟨m, Loaded.cons hne hm, (core_run_succ _ s _ hstep).trans hrun⟩

/-! One `take` a field (30_encoding.md R103). -/

theorem tiles_cons_iff (f : FrameField) (m : List FrameField) (start stop : Nat) :
    tiles (f :: m) start stop = true ↔ f.position = start ∧ tiles m (start + f.width) stop = true := by
  simp [tiles]

theorem le_of_tiles (m : List FrameField) (start stop : Nat) (h : tiles m start stop = true) : start ≤ stop := by
  induction m generalizing start with
  | nil => exact (beq_iff_eq.1 h).le
  | cons f m ih => exact (Nat.le_add_right _ _).trans (ih _ ((tiles_cons_iff f m _ _).1 h).2)

/-- The pseudo-instruction `take` over a written frame with enough bits left: one step, which consumes the field. -/
theorem step_take (s : State) (w : Nat) (rest : List Event) (he : s.events = Program.take w ++ rest)
    (hw : 1 ≤ w ∧ w ≤ 32) (hb : s.cursor.toNat + w ≤ 8 * s.flen.toNat) (hl : s.flen.toNat ≤ s.frameMax)
    (hwritten : FrameWritten s) :
    ∃ n v, n.toNat = w ∧ fetchField n (s.setEvents rest) = .value v ∧
      step s = .next (consumed n v (s.setEvents rest)) := by
  obtain ⟨n, rfl⟩ : ∃ n : BitVec 6, n.toNat = w := ⟨BitVec.ofNat 6 w, Nat.mod_eq_of_lt (by omega)⟩
  obtain ⟨v, hv⟩ := bits_ok s.fb s.cursor.toNat n.toNat fun k hk => hwritten _ (by omega)
  have hfetch : fetchField n (s.setEvents rest) = .value v :=
    (fetchField_read n (s.setEvents rest) hw hl hb).trans (congrArg Operand.ofRead hv)
  refine ⟨n, v, rfl, hfetch, ?_⟩
  have hword : s.events = .write 0 (encode (.take n)) :: rest := by
    rw [he]
    exact congrArg (fun e => e :: rest) (wr_cmd_widthWord n 0x01)
  calc step s = runCommand (encode (.take n)) (s.setEvents rest) := step_of_events_cons s _ rest hword
    _ = execTake n (s.setEvents rest) := runCommand_of_decode_ok _ _ _ (decode_encode (.take n))
    _ = .next (consumed n v (s.setEvents rest)) := by rw [execTake, hfetch]; rfl

/-- RESULT holds the whole field: it has at most 32 bits (40_bit_cursor.md R130). -/
theorem consumed_result_toNat (n : BitVec 6) (s : State) (byte : Nat → Byte) (v : Nat) (h : fetchField n s = .value v)
    (hbyte : ∀ i, i < s.flen.toNat → s.fb.read i = some (byte i)) :
    (consumed n v s).result.toNat = fieldOf byte s.cursor.toNat n.toNat := by
  obtain ⟨hw, -, hb, hv⟩ := fetchField_value n s v h
  have hfield := bits_eq_fieldOf s.fb byte s.cursor.toNat n.toNat fun k hk => hbyte _ (by omega)
  have hlt : v < 2 ^ 32 := (bits_lt _ _ _ _ hv).trans_le (Nat.pow_le_pow_right (by decide) hw.2)
  rw [← Except.ok.inj (hv.symm.trans hfield)]
  exact Nat.mod_eq_of_lt hlt

end Sys2Proof.Machine

namespace Sys2Proof.Claims

open Sys2Proof.Machine

/-- Settles O1: the cases of the command, by the fields of its word. -/
theorem decodeOfEncode : Obligations.DecodeOfEncode := decode_encode

/-- Settles O2: a decoded word has the fields of its command's word, and the fields make up the word. -/
theorem encodeOfDecode : Obligations.EncodeOfDecode := encode_of_decode

/-- Settles O3, row by row: the mask of a cursor command leaves the width out, the full mask is the whole word. -/
theorem opcodeMapIsTheTable : Obligations.OpcodeMapIsTheTable := by
  intro w
  refine ⟨?take, ?peek, ?tag, ?verify, ?beginFrame, ?crcCompute, ?cprResolve⟩
  case take => exact fun n => decode_eq_ok_iff_mask w (.take n)
  case peek => exact fun n => decode_eq_ok_iff_mask w (.peek n)
  case tag => exact fun n => decode_eq_ok_iff_mask w (.tag n)
  case verify => exact fun n => decode_eq_ok_iff_mask w (.verify n)
  case beginFrame => exact decode_eq_ok_iff_fullMask w .beginFrame
  case crcCompute => exact decode_eq_ok_iff_fullMask w .crcCompute
  case cprResolve => exact decode_eq_ok_iff_fullMask w .cprResolve

/-- Settles O6: an illegal word meets one of the chain's first three checks; any other word has a command's fields, and
the chain goes on to that command. -/
theorem commandWordChecksInOrder : Obligations.CommandWordChecksInOrder := by
  intro s a w rest he ha op n s'
  have hstep : step s = runCommand w s' :=
    (step_of_events_cons s _ rest he).trans (hostWrite_of_cmd a w _ ((portReg_eq_cmd_iff_wordAt a).2 ha))
  rw [hstep, ← ite_or, ← ite_or]
  by_cases hw : IllegalWord w
  · rw [runCommand_of_illegalWord w s' hw]
    exact (if_pos (or_assoc.2 hw)).symm
  · obtain ⟨i, hi⟩ := exists_decode_of_not_illegalWord w hw
    obtain ⟨-, hop, hn⟩ := toNat_of_decode hi
    replace hop : op = i.opcode.toNat := hop
    replace hn : n = i.width.toNat := hn
    rw [runCommand_of_decode_ok w i s' hi]
    refine Eq.trans ?_ (if_neg (hw ∘ or_assoc.1)).symm
    have check := fun m => ite_illegalWidth_exec (i := i) (n := m) s'
    simp only [hop, hn]
    cases i with
    | take m | peek m | tag m | verify m =>
      simpa [Instr.opcode, Instr.width, cursorWidth] using (check _ rfl).symm
    | beginFrame | crcCompute | cprResolve => rfl

/-- Settles O37: the codes by their table; then each code's line of `raises_iff`, `execRaises_iff` and the two fetches.
Only E_BAD_LENGTH has two lines, one of each fetch. -/
theorem eachCodeNamesItsCause : Obligations.EachCodeNamesItsCause := by
  refine ⟨by decide, fun w s => ⟨?truncated, ?unexpectedValue, ?constraintViolation, ?crcInputTooShort, ?illegalCommand,
    ?illegalWidth, ?badLength⟩⟩
  case badLength =>
    simp only [raises_iff, execRaises_iff, fetchField_eq_raises_iff, fetchFrame_eq_raises_iff, ne_eq, reduceCtorEq,
      not_false_eq_true, true_and, false_and, false_or, or_false]
    constructor
    · rintro ⟨i, hi, ⟨n, hn, hw, hl⟩ | ⟨rfl, hl⟩⟩
      · exact ⟨hl, .inr ⟨i, n, hi, hn, hw⟩⟩
      · exact ⟨hl, .inl hi⟩
    · rintro ⟨hl, hi | ⟨i, n, hi, hn, hw⟩⟩
      · exact ⟨_, hi, .inr ⟨rfl, hl⟩⟩
      · exact ⟨i, hi, .inl ⟨n, hn, hw, hl⟩⟩
  all_goals
    simp [raises_iff, execRaises_iff, fetchField_eq_raises_iff, fetchFrame_eq_raises_iff, fetchField_eq_value_iff]

/-- Settles O47: the window writes by `run_frameWords`, then the write of FLEN. -/
theorem frameLoadsItsBytes : Obligations.FrameLoadsItsBytes := by
  intro s bytes rest hmax hlen he
  obtain ⟨-, hmax⟩ := hmax
  rw [Program.frame, List.append_assoc] at he
  obtain ⟨m, hm, hrun⟩ := run_frameWords 0 bytes s _ (by omega) he
  have hflen := step_of_wr { s with events := _, fb := m } .flen (BitVec.ofNat 32 bytes.length) rest rfl (by simp)
    (by simp)
  rw [Program.frame, List.length_append]
  refine ⟨_, (core_run_add _ 1 s _ hrun).trans (core_run_succ 0 _ _ hflen), rfl, ?flen, ?written, ?padded, ?kept⟩
  case flen =>
    change ((BitVec.ofNat 32 bytes.length).setWidth 8).toNat = bytes.length
    rw [BitVec.toNat_setWidth, BitVec.toNat_ofNat]
    omega
  case written =>
    intro i b hb
    have hi := (List.getElem?_eq_some_iff.1 hb).1
    refine (hm i).trans ((if_pos (by omega)).trans ?_)
    rw [Nat.mul_zero, Nat.sub_zero, List.getD_eq_getElem?_getD, hb, Option.getD_some]
  case padded =>
    intro i hi hword hfb
    refine (hm i).trans ((if_pos (by omega)).trans ?_)
    rw [Nat.mul_zero, Nat.sub_zero, List.getD_eq_default _ _ hi]
  case kept => exact fun i hi => (hm i).trans (if_neg (by omega))

/-- Settles O48, by induction on the layout: the first field's step leaves the frame as it was and CURSOR at the next
field. -/
theorem fieldsAreReadInOrder : Obligations.FieldsAreReadInOrder := by
  intro s m stop rest htiles hwidth hstop hlen hwritten he
  induction m generalizing s with
  | nil => exact ⟨s, rfl, he, beq_iff_eq.1 htiles, fun f byte hlast => by cases hlast⟩
  | cons f m ih =>
    obtain ⟨hpos, htiles⟩ := (tiles_cons_iff f m _ _).1 htiles
    have hfits := le_of_tiles m _ _ htiles
    obtain ⟨n, v, hn, hfetch, hstep⟩ := step_take s f.width (Program.takeFields m ++ rest) he
      (hwidth f List.mem_cons_self) (hfits.trans hstop) hlen hwritten
    have hcursor := consumed_cursor_toNat n v _ hfetch
    obtain ⟨t, hrun, hevents, hend, hlast⟩ := ih (consumed n v (s.setEvents (Program.takeFields m ++ rest)))
      (by rw [hcursor, hn]; exact htiles) (fun g hg => hwidth g (List.mem_cons_of_mem f hg)) hstop hlen hwritten rfl
    refine ⟨t, (core_run_succ _ s _ hstep).trans hrun, hevents, hend, fun g byte hg hbyte => ?_⟩
    cases m with
    | nil =>
      obtain rfl : f = g := Option.some.inj hg
      cases hrun
      rw [hpos, ← hn]
      exact ⟨consumed_result_toNat n _ byte v hfetch hbyte, rfl⟩
    | cons f' m => exact hlast g byte ((List.getLast?_cons_cons ..).symm.trans hg) hbyte

/-- Settles O4: each word is the encoding of its command. -/
theorem vectorWordsDecode : Obligations.VectorWordsDecode :=
  ⟨decode_encode (.take 32), decode_encode (.peek 5), decode_encode (.tag 5), decode_encode (.verify 5),
    decode_encode .beginFrame, decode_encode .crcCompute, decode_encode .cprResolve⟩

/-- Settles O46: the words by `widthWord_eq_commandWord`, the offsets by `portReg_offsetOf`. -/
theorem pseudoInstructionsAreTheirCommands : Obligations.PseudoInstructionsAreTheirCommands := by
  refine ⟨fun n => ⟨?take, ?peek, fun v => ?tag, fun lo hi => ?verify⟩, rfl, rfl, rfl, portReg_offsetOf⟩
  case take => exact congrArg (fun e => [e]) (wr_cmd_widthWord n 0x01)
  case peek => exact congrArg (fun e => [e]) (wr_cmd_widthWord n 0x02)
  case tag => exact congrArg (fun e => [Event.write 0x014 v, e]) (wr_cmd_widthWord n 0x03)
  case verify => exact congrArg (fun e => [Event.write 0x014 lo, Event.write 0x018 hi, e]) (wr_cmd_widthWord n 0x04)

/-- Settles O49: each layout adds up. -/
theorem layoutsFillTheirFrames : Obligations.LayoutsFillTheirFrames := by
  unfold Obligations.LayoutsFillTheirFrames
  decide

end Sys2Proof.Claims

/-! PROOFS for 40_bit_cursor.md: BEGIN and the four cursor commands, what they read of the frame, and the frame of every
command. -/

namespace Sys2Proof.Machine

open Sys2Proof.Claims

/-! The word of a command and the checks that the cursor commands share (40_bit_cursor.md R131, R133). -/

/-- The word `(n << 8) | op` is the command's (30_encoding.md R94). -/
theorem decode_shiftedWidth (i : Instr) : decode (i.width.setWidth 32 <<< 8 ||| i.opcode.setWidth 32) = .ok i := by
  have hword : i.width.setWidth 32 <<< 8 ||| i.opcode.setWidth 32 = encode i := by
    rw [encode_eq_commandWord, ← widthWord_eq_commandWord, Program.widthWord, BitVec.ofNat_toNat]
  rw [hword, decode_encode]

/-- The errors of a cursor command are those of the word and of its fetch, in their order. -/
theorem cursorChecks (op : Nat) {command : BitVec 6 → Instr} (hcommand : ∀ n, cursorWidth (command n) = some n) :
    CursorChecks op command := by
  refine ⟨fun w s _ hw => runCommand_of_illegalWord w s (.inl (hw.resolve_right (by simp))), fun n s =>
    ⟨fun hn => ?width, fun hn hlen => ?length, fun hn hlen hbounds => ?bounds⟩⟩
  case width => exact exec_of_illegalWidth s (hcommand n) (by simp only [LegalWidth]; omega)
  case length => exact exec_of_fetchField_raises (hcommand n) (fetchField_badLength n s hn hlen)
  case bounds => exact exec_of_fetchField_raises (hcommand n) (fetchField_truncated n s hn hlen hbounds)

/-! What a cursor command does with the field it fetched (40_bit_cursor.md R135 to R138). -/

theorem fetchField_of_ready {n : BitVec 6} {s : State} {byte : Nat → Byte} (h : FieldReady n s byte) :
    fetchField n s = .value (fieldOf byte s.cursor.toNat n.toNat) :=
  (fetchField_eq_value_iff n s _).2 ⟨byte, h, rfl⟩

theorem lt_of_fetchField_value {n : BitVec 6} {s : State} {v : Nat} (h : fetchField n s = .value v) :
    v < 2 ^ n.toNat := by
  obtain ⟨-, -, -, hbits⟩ := fetchField_value n s v h
  exact bits_lt _ _ _ _ hbits

/-- A legal width fits RESULT, which then holds the whole field (40_bit_cursor.md R130). -/
theorem toNat_setResult_of_fetchField {n : BitVec 6} {s : State} {v : Nat} (h : fetchField n s = .value v) :
    (s.setResult v).result.toNat = v := by
  obtain ⟨⟨-, hwidth⟩, -⟩ := fetchField_value n s v h
  exact Nat.mod_eq_of_lt ((lt_of_fetchField_value h).trans_le (Nat.pow_le_pow_right (by decide) hwidth))

section
variable {n : BitVec 6} {s : State} {v : Nat} (hv : fetchField n s = .value v)
include hv

theorem exec_take_of_value : exec (.take n) s = .next (consumed n v s) := by
  simp only [exec, execTake, hv, withOperand, consume]

theorem exec_peek_of_value : exec (.peek n) s = .next (s.setResult v).succeed := by
  simp only [exec, execPeek, hv, withOperand]

theorem exec_tag_of_match (h : v = s.arg0.toNat) : exec (.tag n) s = .next (consumed n v s) := by
  simp only [exec, execTag, hv, withOperand, if_pos h, consume]

theorem exec_verify_of_in_range (h : s.arg0.toNat ≤ v ∧ v ≤ s.arg1.toNat) :
    exec (.verify n) s = .next (consumed n v s) := by
  simp only [exec, execVerify, hv, withOperand, if_pos h, consume]

end

/-! Consecutive fields (40_bit_cursor.md R140). -/

/-- A field is its first `m` bits and then its other `k`. -/
theorem fieldOf_add (byte : Nat → Byte) (off m k : Nat) :
    fieldOf byte off (m + k) = fieldOf byte off m * 2 ^ k + fieldOf byte (off + m) k := by
  induction k with
  | zero => simp [fieldOf]
  | succ k ih =>
    rw [← Nat.add_assoc, fieldOf_succ, ih, fieldOf_succ, pow_succ, Nat.add_assoc off m k]
    ring

/-- A number put behind another, `k` bits wide, is OR-ed in below it. -/
theorem ofNat_mul_two_pow_add {w k : Nat} (u v : Nat) (hv : v < 2 ^ k) :
    BitVec.ofNat w (u * 2 ^ k + v) = BitVec.ofNat w u <<< k ||| BitVec.ofNat w v := by
  have hshift : BitVec.ofNat w (u <<< k) = BitVec.ofNat w u <<< k :=
    BitVec.eq_of_toNat_eq (by simp [Nat.shiftLeft_eq, Nat.mod_mul_mod])
  rw [← hshift, ← BitVec.ofNat_or, ← Nat.shiftLeft_add_eq_or_of_lt hv, Nat.shiftLeft_eq]

/-- The state after TAKE n over the written bytes `byte`. -/
def taken (n : BitVec 6) (byte : Nat → Byte) (s : State) : State :=
  consumed n (fieldOf byte s.cursor.toNat n.toNat) s

theorem taken_result (n : BitVec 6) (byte : Nat → Byte) (s : State) :
    (taken n byte s).result = BitVec.ofNat 32 (fieldOf byte s.cursor.toNat n.toNat) := rfl

section
variable {m k n : BitVec 6} {s : State} {byte : Nat → Byte} (h : FieldReady n s byte)
include h

theorem exec_take_of_ready : exec (.take n) s = .next (taken n byte s) :=
  exec_take_of_value (fetchField_of_ready h)

theorem taken_cursor_toNat : (taken n byte s).cursor.toNat = s.cursor.toNat + n.toNat :=
  consumed_cursor_toNat n _ s (fetchField_of_ready h)

/-- Where a field is ready, so is any shorter one. -/
theorem fieldReady_of_le (hm : 1 ≤ m.toNat) (hle : m.toNat ≤ n.toNat) : FieldReady m s byte := by
  obtain ⟨⟨-, hwidth⟩, hlen, hbounds, hwritten⟩ := h
  exact ⟨⟨hm, by omega⟩, hlen, by omega, fun j hj => hwritten j (by omega)⟩

variable (hm : 1 ≤ m.toNat) (hk : 1 ≤ k.toNat) (hn : m.toNat + k.toNat = n.toNat)
include hm hk hn

/-- After TAKE of its first bits, the rest of a field is ready. -/
theorem fieldReady_taken : FieldReady k (taken m byte s) byte := by
  have hcursor := taken_cursor_toNat (fieldReady_of_le h hm (by omega))
  obtain ⟨⟨-, hwidth⟩, hlen, hbounds, hwritten⟩ := h
  refine ⟨⟨hk, by omega⟩, hlen, ?bounds, fun j hj => ?written⟩
  case bounds =>
    rw [hcursor, Nat.add_assoc, hn]
    exact hbounds
  case written =>
    rw [hcursor, Nat.add_assoc]
    exact hwritten (m.toNat + j) (by omega)

/-- One TAKE ends where TAKE of its two parts ends. -/
theorem taken_cursor_of_parts : (taken n byte s).cursor = (taken k byte (taken m byte s)).cursor := by
  apply BitVec.eq_of_toNat_eq
  rw [taken_cursor_toNat h, taken_cursor_toNat (fieldReady_taken h hm hk hn),
    taken_cursor_toNat (fieldReady_of_le h hm (by omega)), ← hn, Nat.add_assoc]

/-- One TAKE reads the results of TAKE of its two parts, packed big-endian. -/
theorem taken_result_of_parts :
    (taken n byte s).result = (taken m byte s).result <<< k.toNat ||| (taken k byte (taken m byte s)).result := by
  have hlt := lt_of_fetchField_value (fetchField_of_ready (fieldReady_taken h hm hk hn))
  have hcursor := taken_cursor_toNat (fieldReady_of_le h hm (by omega))
  rw [hcursor] at hlt
  simp only [taken_result, hcursor]
  rw [← hn, fieldOf_add, ofNat_mul_two_pow_add _ _ hlt]

end

/-! Which bytes of FB a command reads (40_bit_cursor.md R139, R141). -/

/-- What a command answers, with FB replaced in its next state. -/
def withFrame (m : Memory) (o : Outcome) : Outcome :=
  match o with
  | .next t => .next { t with fb := m }
  | .fault f => .fault f
  | .refused r => .refused r

section
variable {s : State} {m : Memory} (h : ∀ k, k < s.flen.toNat → Memory.read m k = s.fb.read k)

theorem withOperand_withFrame {α : Type} (o : Operand α) {k k' : α → Outcome} (hk : ∀ v, k' v = withFrame m (k v)) :
    withOperand o { s with fb := m } k' = withFrame m (withOperand o s k) := by
  cases o with
  | raises c => rfl
  | unwritten i => rfl
  | value v => exact hk v

include h

/-- Below FLEN the two frame buffers agree, and every byte of a field that passes the checks is there. -/
theorem fetchField_of_agree (n : BitVec 6) : fetchField n { s with fb := m } = fetchField n s := by
  unfold fetchField
  split_ifs with hwidth hlen hbounds
  · rfl
  · rfl
  · rfl
  · have hend : s.cursor.toNat + n.toNat ≤ 8 * s.flen.toNat := Nat.not_lt.1 hbounds
    exact congrArg Operand.ofRead (bits_congr s.fb m s.cursor.toNat n.toNat fun k hk => h _ (by omega))

theorem fetchFrame_of_agree : fetchFrame { s with fb := m } = fetchFrame s := by
  unfold fetchFrame
  rw [frameBytes_congr s.fb m 0 s.flen.toNat fun k _ hk => h k (by omega)]

theorem exec_of_agree (i : Instr) : exec i { s with fb := m } = withFrame m (exec i s) := by
  cases i with
  | take n =>
    simp only [exec, execTake, fetchField_of_agree h]
    exact withOperand_withFrame _ fun v => rfl
  | peek n =>
    simp only [exec, execPeek, fetchField_of_agree h]
    exact withOperand_withFrame _ fun v => rfl
  | tag n =>
    simp only [exec, execTag, fetchField_of_agree h]
    exact withOperand_withFrame _ fun v => by split <;> rfl
  | verify n =>
    simp only [exec, execVerify, fetchField_of_agree h]
    exact withOperand_withFrame _ fun v => by split <;> rfl
  | beginFrame => rfl
  | crcCompute =>
    simp only [exec, execCrcCompute, fetchFrame_of_agree h]
    exact withOperand_withFrame _ fun v => rfl
  | cprResolve => rfl

end

/-- A field with an unwritten byte reads as the index of one. -/
theorem bits_error_of_unwritten (m : Memory) (off n : Nat) (h : ∃ k, k < n ∧ m.read ((off + k) / 8) = none) :
    ∃ k, k < n ∧ m.read ((off + k) / 8) = none ∧ bits m off n = .error ((off + k) / 8) := by
  cases hbits : bits m off n with
  | ok v =>
    obtain ⟨k, hk, hnone⟩ := h
    have hsome := isSome_read_of_bits_ok m off n v hbits k hk
    rw [hnone] at hsome
    cases hsome
  | error i =>
    obtain ⟨hnone, k, hk, rfl⟩ := bits_error m off n i hbits
    exact ⟨k, hk, hnone, rfl⟩

/-- An unwritten byte of the field ends a cursor command, whichever it is. -/
theorem exec_of_fetchField_unwritten {i : Instr} {n : BitVec 6} {s : State} {k : Nat} (hi : cursorWidth i = some n)
    (h : fetchField n s = .unwritten k) : exec i s = .fault (.unwrittenByte k) := by
  cases i with
  | take m | peek m | tag m | verify m =>
    obtain rfl := Option.some.inj hi
    simp only [exec, execTake, execPeek, execTag, execVerify, h, withOperand]
  | beginFrame | crcCompute | cprResolve => cases hi

/-! What commands leave unchanged (40_bit_cursor.md R132). -/

theorem exec_inputsKept (i : Instr) (s t : State) (h : exec i s = .next t) : InputsKept s t := by
  rcases exec_next i s t h with
    ⟨c, -, rfl⟩ | ⟨n, v, -, -, rfl⟩ | ⟨n, v, -, -, rfl⟩ | ⟨-, rfl⟩ | ⟨-, bytes, -, rfl⟩ | ⟨-, rfl⟩
  all_goals exact ⟨fun _ => rfl, rfl, rfl, rfl, rfl, rfl, rfl, rfl, rfl, rfl, rfl, rfl, rfl⟩

/-- Only CRC_COMPUTE writes CRC_REM and CRCZ (41_crc24.md R172). -/
theorem exec_remainder (i : Instr) (s t : State) (h : exec i s = .next t) (hi : i ≠ .crcCompute) :
    t.crcRem = s.crcRem ∧ t.status.crcz = s.status.crcz := by
  rcases exec_next i s t h with
    ⟨c, -, rfl⟩ | ⟨n, v, -, -, rfl⟩ | ⟨n, v, -, -, rfl⟩ | ⟨-, rfl⟩ | ⟨hc, -⟩ | ⟨-, rfl⟩
  · exact ⟨rfl, rfl⟩
  · exact ⟨rfl, rfl⟩
  · exact ⟨rfl, rfl⟩
  · exact ⟨rfl, rfl⟩
  · exact absurd hc hi
  · exact ⟨rfl, rfl⟩

/-- A command that succeeds leaves ANYERR as it is, BEGIN apart (10_state.md R29). -/
theorem exec_anyErr_of_success (i : Instr) (s t : State) (h : exec i s = .next t) (hi : i ≠ .beginFrame)
    (ht : t.status.err = .none) : t.status.anyErr = s.status.anyErr := by
  rcases exec_next i s t h with
    ⟨c, hc, rfl⟩ | ⟨n, v, -, -, rfl⟩ | ⟨n, v, -, -, rfl⟩ | ⟨hb, -⟩ | ⟨-, bytes, -, rfl⟩ | ⟨-, rfl⟩
  · exact absurd ht hc
  · rfl
  · rfl
  · exact absurd hb hi
  · rfl
  · rfl

/-- Only the cursor commands write RESULT (40_bit_cursor.md R132). -/
theorem exec_result (i : Instr) (s t : State) (h : exec i s = .next t) (hi : cursorWidth i = none) :
    t.result = s.result := by
  rcases exec_next i s t h with
    ⟨c, -, rfl⟩ | ⟨n, v, hn, -, -⟩ | ⟨n, v, rfl, -, -⟩ | ⟨-, rfl⟩ | ⟨-, bytes, -, rfl⟩ | ⟨-, rfl⟩
  · rfl
  · rcases hn with rfl | rfl | rfl <;> cases hi
  · cases hi
  · rfl
  · rfl
  · rfl

end Sys2Proof.Machine

namespace Sys2Proof.Claims

open Sys2Proof.Machine

/-- Settles O9: over ready bytes the fetch answers the field, which TAKE consumes. -/
theorem takeConsumesItsField : Obligations.TakeConsumesItsField := by
  refine ⟨fun n => decode_shiftedWidth (.take n), fun n s byte h => ?_, cursorChecks 0x01 fun _ => rfl⟩
  have hv := fetchField_of_ready h
  exact ⟨_, exec_take_of_value hv, toNat_setResult_of_fetchField hv, consumed_cursor_toNat n _ s hv, rfl⟩

/-- Settles O10, as O9. -/
theorem peekReadsWithoutAdvancing : Obligations.PeekReadsWithoutAdvancing := by
  refine ⟨fun n => decode_shiftedWidth (.peek n), fun n s byte h => ?_, cursorChecks 0x02 fun _ => rfl⟩
  have hv := fetchField_of_ready h
  exact ⟨_, exec_peek_of_value hv, toNat_setResult_of_fetchField hv, rfl⟩

/-- Settles O11: an ARG0 of 2^n or more is a mismatch, since the field is below 2^n. -/
theorem tagDemandsItsValue : Obligations.TagDemandsItsValue := by
  refine ⟨fun n => decode_shiftedWidth (.tag n), fun n s byte h heq => ?equal, fun n s byte h hne => ?mismatch,
    fun n s byte h hlarge => ?large, cursorChecks 0x03 fun _ => rfl⟩
  case equal =>
    have hv := fetchField_of_ready h
    rw [heq] at hv
    refine ⟨_, exec_tag_of_match hv rfl, consumed_cursor_toNat n _ s hv, ?_⟩
    rw [consumed, State.setResult, BitVec.ofNat_toNat, BitVec.setWidth_eq]
    rfl
  case mismatch => exact exec_tag_of_mismatch (fetchField_of_ready h) hne
  case large =>
    have hv := fetchField_of_ready h
    exact exec_tag_of_mismatch hv ((lt_of_fetchField_value hv).trans_le hlarge).ne

/-- Settles O12, by the two outcomes of VERIFY on a fetched field. -/
theorem verifyDemandsItsRange : Obligations.VerifyDemandsItsRange := by
  refine ⟨fun n => decode_shiftedWidth (.verify n), fun n s byte h hin => ?inRange, fun n s byte h hout => ?outOfRange,
    cursorChecks 0x04 fun _ => rfl⟩
  case inRange =>
    have hv := fetchField_of_ready h
    exact ⟨_, exec_verify_of_in_range hv hin, toNat_setResult_of_fetchField hv, consumed_cursor_toNat n _ s hv, rfl⟩
  case outOfRange => exact exec_verify_of_out_of_range (fetchField_of_ready h) hout

/-- Settles O13: 24 bits are 8 and 16, and the 16 are 8 and 8. -/
theorem threeBytesMakeOneField : Obligations.ThreeBytesMakeOneField := by
  intro s byte h
  have hfirst : FieldReady 8 s byte := fieldReady_of_le h (by decide) (by decide)
  have hrest : FieldReady 16 (taken 8 byte s) byte := fieldReady_taken h (by decide) (by decide) rfl
  have hsecond : FieldReady 8 (taken 8 byte s) byte := fieldReady_of_le hrest (by decide) (by decide)
  have hthird : FieldReady 8 (taken 8 byte (taken 8 byte s)) byte :=
    fieldReady_taken hrest (by decide) (by decide) rfl
  refine ⟨_, _, _, _, exec_take_of_ready hfirst, exec_take_of_ready hsecond, exec_take_of_ready hthird,
    exec_take_of_ready h, ?result, ?cursor⟩
  case result =>
    rw [taken_result_of_parts (m := 8) (k := 16) h (by decide) (by decide) rfl,
      taken_result_of_parts (m := 8) (k := 8) hrest (by decide) (by decide) rfl, ← BitVec.or_assoc]
    rfl
  case cursor =>
    exact (taken_cursor_of_parts h (by decide) (by decide) rfl).trans
      (taken_cursor_of_parts hrest (by decide) (by decide) rfl)

/-- Settles O14: a PEEK that succeeds has fetched the field, and TAKE fetches it again. -/
theorem peekForetellsTake : Obligations.PeekForetellsTake := by
  intro n s t h ht
  rcases execPeek_next n s t h with ⟨c, hc, rfl⟩ | ⟨v, hv, rfl⟩
  · exact absurd ht (fetchField_raises_ne_none n s c hc)
  · have hv' : fetchField n (s.setResult v).succeed = .value v := hv
    exact ⟨_, exec_take_of_value hv', rfl, rfl⟩

/-- Settles O15: a command on the other frame buffer answers the same, with that frame buffer in its next state. -/
theorem noByteBeyondTheFrameIsRead : Obligations.NoByteBeyondTheFrameIsRead := by
  intro i s m h
  rw [exec_of_agree h]
  exact ⟨fun t ht => by rw [ht]; rfl, fun f hf => by rw [hf]; rfl⟩

/-- Settles O16: the checks pass, so the fetch is the read of the field, which meets an unwritten byte. -/
theorem unwrittenFieldByteFaults : Obligations.UnwrittenFieldByteFaults := by
  intro i n s hi hwidth hlen hbounds hunwritten
  obtain ⟨k, hk, hnone, hbits⟩ := bits_error_of_unwritten _ _ _ hunwritten
  refine ⟨k, hk, hnone, exec_of_fetchField_unwritten hi ?_⟩
  rw [fetchField_read n s hwidth hlen hbounds, hbits]
  rfl

/-- Settles O38, register by register; each register's lemma names the commands that write it. -/
theorem commandFrames : Obligations.CommandFrames := by
  intro i s t h
  refine ⟨exec_inputsKept i s t h, fun n hn => ?cursorCommand, ?peek, ?beginFrame, ?crcCompute, ?cprResolve⟩
  case cursorCommand =>
    have ne : ∀ j, cursorWidth j = none → i ≠ j := by
      rintro j hj rfl
      cases hj.symm.trans hn
    obtain ⟨hrem, hcrcz⟩ := exec_remainder i s t h (ne _ rfl)
    obtain ⟨hout, hvalid⟩ := exec_position i s t h (ne _ rfl)
    exact ⟨hrem, hout, hcrcz, hvalid, exec_anyErr_of_success i s t h (ne _ rfl)⟩
  case peek =>
    rintro n rfl
    rcases execPeek_next n s t h with ⟨c, -, rfl⟩ | ⟨v, -, rfl⟩
    · rfl
    · rfl
  case beginFrame =>
    rintro rfl
    cases h
    exact ⟨rfl, rfl, rfl, rfl, rfl⟩
  case crcCompute =>
    rintro rfl
    obtain ⟨hout, hvalid⟩ := exec_position _ s t h (by simp)
    refine ⟨?_, exec_result _ s t h rfl, hout, hvalid, exec_anyErr_of_success _ s t h (by simp)⟩
    rcases execCrcCompute_next s t h with ⟨c, -, rfl⟩ | ⟨bytes, -, rfl⟩
    · rfl
    · rfl
  case cprResolve =>
    rintro rfl
    cases h
    exact ⟨rfl, rfl, rfl, rfl, rfl⟩

/-- Settles O8: the word is BEGIN's encoding, and an illegal word of this OPCODE has RSVD or WIDTH nonzero. -/
theorem beginRestartsTheCursor : Obligations.BeginRestartsTheCursor := by
  refine ⟨decode_encode .beginFrame, fun w s hop hw => runCommand_of_illegalWord w s ?_, fun s => rfl⟩
  by_cases hrsvd : w.toNat / 2 ^ 14 = 0
  · exact .inr (.inr ⟨by rw [hop]; decide, by omega⟩)
  · exact .inl hrsvd

end Sys2Proof.Claims

/-! PROOFS for 41_crc24.md: the remainder of a frame as the table's pseudocode and as the bit-serial form, its linearity,
and what CRC_COMPUTE answers on a written frame, on an unwritten byte and on an error. -/

namespace Sys2Proof.Machine

open Sys2Proof.Claims

/-! The remainder of a frame: its data bytes, and its last three bytes XOR-ed in (41_crc24.md R173). -/

/-- The remainder of the first `n` bytes as data. -/
def dataRem (byte : Nat → Byte) (n : Nat) : Rem := crcData ((List.range n).map byte)

/-- MemRead(L-3, 3) as a remainder. -/
def lastThreeRem (byte : Nat → Byte) (len : Nat) : Rem := (byte (len - 3) ++ byte (len - 2)) ++ byte (len - 1)

/-- compute(bytes) of a whole frame. -/
def frameRem (byte : Nat → Byte) (len : Nat) : Rem := crc24 ((List.range len).map byte)

@[simp] theorem dataRem_zero (byte : Nat → Byte) : dataRem byte 0 = 0#24 := rfl

theorem dataRem_succ (byte : Nat → Byte) (n : Nat) : dataRem byte (n + 1) = crcStep (dataRem byte n) (byte n) := by
  rw [dataRem, List.range_succ, List.map_append, List.map_singleton, crcData_append, dataRem]

theorem toNat_lastThreeRem (byte : Nat → Byte) (len : Nat) : (lastThreeRem byte len).toNat = lastThree byte len := by
  rw [lastThreeRem, lastThree, toNat_append_eq_add, toNat_append_eq_add]
  omega

/-- A frame of at least three bytes is its data bytes and then its last three. -/
theorem frameRem_eq (byte : Nat → Byte) {len : Nat} (h : 3 ≤ len) :
    frameRem byte len = dataRem byte (len - 3) ^^^ lastThreeRem byte len := by
  obtain ⟨n, rfl⟩ := Nat.exists_eq_add_of_le' h
  have hsplit : (List.range (n + 3)).map byte = (List.range n).map byte ++ [byte n, byte (n + 1), byte (n + 2)] := by
    simp [List.range_succ]
  have hlast : BitVec.ofNat 24 (bigEndian [byte n, byte (n + 1), byte (n + 2)]) = lastThreeRem byte (n + 3) := by
    apply BitVec.eq_of_toNat_eq
    rw [toNat_lastThreeRem, lastThree, BitVec.toNat_ofNat]
    simp only [bigEndian, List.foldl, Nat.reduceSubDiff, Nat.add_sub_cancel]
    have := (byte n).isLt
    have := (byte (n + 1)).isLt
    have := (byte (n + 2)).isLt
    omega
  rw [frameRem, crc24, hsplit, ← hlast, dataRem]
  simp

/-! The remainder of bytes that are the XOR of others, or zero (41_crc24.md R175, R179). -/

theorem dataRem_xor (byte byte' : Nat → Byte) (n : Nat) :
    dataRem (fun i => byte i ^^^ byte' i) n = dataRem byte n ^^^ dataRem byte' n := by
  induction n with
  | zero => simp only [dataRem_zero, BitVec.xor_self]
  | succ n ih => rw [dataRem_succ, dataRem_succ, dataRem_succ, ih, crcStep_xor]

theorem lastThreeRem_xor (byte byte' : Nat → Byte) (len : Nat) :
    lastThreeRem (fun i => byte i ^^^ byte' i) len = lastThreeRem byte len ^^^ lastThreeRem byte' len := by
  have happend : ∀ a b c a' b' c' : Byte,
      ((a ^^^ a') ++ (b ^^^ b')) ++ (c ^^^ c') = ((a ++ b) ++ c) ^^^ ((a' ++ b') ++ c') := by
    intro a b c a' b' c'
    rw [BitVec.xor_append, BitVec.xor_append]
  exact happend _ _ _ _ _ _

theorem frameRem_xor (byte byte' : Nat → Byte) {len : Nat} (h : 3 ≤ len) :
    frameRem (fun i => byte i ^^^ byte' i) len = frameRem byte len ^^^ frameRem byte' len := by
  rw [frameRem_eq _ h, frameRem_eq _ h, frameRem_eq _ h, dataRem_xor, lastThreeRem_xor]
  ac_rfl

theorem dataRem_of_zeros {byte : Nat → Byte} {n : Nat} (h : ∀ i, i < n → byte i = 0) : dataRem byte n = 0#24 := by
  induction n with
  | zero => rfl
  | succ n ih =>
    rw [dataRem_succ, ih fun i hi => h i (by omega), h n (by omega)]
    decide

theorem lastThreeRem_of_zeros {byte : Nat → Byte} {len : Nat} (h₁ : byte (len - 3) = 0) (h₂ : byte (len - 2) = 0)
    (h₃ : byte (len - 1) = 0) : lastThreeRem byte len = 0#24 := by
  rw [lastThreeRem, h₁, h₂, h₃]
  rfl

/-- The table step of a remainder and a byte is 0 only when the byte cancels the remainder. -/
theorem eq_of_crcStep_eq_zero {rem : Rem} {b : Byte} (h : crcStep rem b = 0) : rem = b.setWidth 24 <<< 16 := by
  rw [crcStep_eq_rounds] at h
  exact BitVec.xor_eq_zero_iff.1 (crcShifts_eq_zero 8 _ h)

/-! The remainder by the pseudocode, on numbers (41_crc24.md R171, R173). -/

theorem toNat_shiftLeft_one (c : Rem) : (c <<< 1).toNat = 2 * c.toNat % 2 ^ 24 := by
  rw [BitVec.toNat_shiftLeft, Nat.shiftLeft_eq, Nat.mul_comm]

theorem toNat_crcShift (c : Rem) : (crcShift c).toNat = crcRound c.toNat := by
  have hbit : c.toNat.testBit 23 = c.getLsbD 23 := rfl
  unfold crcShift crcRound
  rw [hbit]
  split
  · rw [BitVec.toNat_xor, toNat_shiftLeft_one]
    rfl
  · exact toNat_shiftLeft_one c

theorem toNat_crcShifts (k : Nat) (c : Rem) : (crcShifts k c).toNat = crcRound^[k] c.toNat := by
  induction k generalizing c with
  | zero => rfl
  | succ k ih => rw [crcShifts, ih, toNat_crcShift, Function.iterate_succ_apply]

theorem toNat_crcTable (b : Byte) : (crcTable b).toNat = crcTableEntry b.toNat := by
  have hstart : (b.setWidth 24 <<< 16).toNat = b.toNat * 2 ^ 16 := by
    have hb := b.isLt
    rw [BitVec.toNat_shiftLeft, BitVec.toNat_setWidth, Nat.shiftLeft_eq]
    omega
  rw [crcTable, toNat_crcShifts, hstart, crcTableEntry]

/-- One step of the table loop, on numbers. -/
theorem toNat_crcStep (rem : Rem) (b : Byte) :
    (crcStep rem b).toNat =
      ((rem.toNat * 256) ^^^ crcTableEntry (b.toNat ^^^ rem.toNat / 65536 % 256)) % 2 ^ 24 := by
  have hindex : (b ^^^ rem.extractLsb' 16 8).toNat = b.toNat ^^^ rem.toNat / 65536 % 256 := by
    rw [BitVec.toNat_xor, BitVec.extractLsb'_toNat, Nat.shiftRight_eq_div_pow]
  rw [crcStep, BitVec.toNat_xor, BitVec.toNat_shiftLeft, Nat.shiftLeft_eq, ← hindex, ← toNat_crcTable,
    Nat.xor_mod_two_pow, Nat.mod_eq_of_lt (crcTable _).isLt]

/-- The loop of the pseudocode over the first `n` bytes. -/
theorem toNat_dataRem (byte : Nat → Byte) (n : Nat) :
    (dataRem byte n).toNat = (List.range n).foldl
      (fun rem i => ((rem * 256) ^^^ crcTableEntry ((byte i).toNat ^^^ rem / 65536 % 256)) % 2 ^ 24) 0 := by
  induction n with
  | zero => rfl
  | succ n ih =>
    rw [dataRem_succ, toNat_crcStep, List.range_succ, List.foldl_append, ← ih, List.foldl_cons, List.foldl_nil]

theorem toNat_frameRem_eq_tableCrc (byte : Nat → Byte) {len : Nat} (h : 3 ≤ len) :
    (frameRem byte len).toNat = tableCrc byte len := by
  rw [frameRem_eq byte h, BitVec.toNat_xor, toNat_dataRem, toNat_lastThreeRem, tableCrc]

/-! The remainder bit by bit (41_crc24.md R175). -/

/-- One bit of the bit-serial form: multiply by x, and reduce when the bit differs from the top of the remainder. -/
def serialStep (rem : Rem) (b : Bool) : Rem := if rem.getLsbD 23 = b then rem <<< 1 else (rem <<< 1) ^^^ crcPoly

/-- The bit-serial remainder of the first `p` stream bits. -/
def serialRem (byte : Nat → Byte) (p : Nat) : Rem :=
  match p with
  | 0 => 0
  | p + 1 => serialStep (serialRem byte p) ((byte (p / 8)).getLsbD (7 - p % 8))

/-- A round takes in the top bit of what is XOR-ed to the remainder, and shifts the rest up. -/
theorem crcShift_xor_eq_serialStep (rem x : Rem) :
    crcShift (rem ^^^ x) = serialStep rem (x.getLsbD 23) ^^^ x <<< 1 := by
  unfold crcShift serialStep
  rw [BitVec.getLsbD_xor, BitVec.shiftLeft_xor_distrib]
  cases rem.getLsbD 23 <;> cases x.getLsbD 23 <;> simp <;> ac_rfl

/-- After `j` rounds over a byte the serial remainder has taken in the byte's first `j` bits; its other bits stand at the
top, still XOR-ed to it. -/
theorem rounds_eq_serialRem (byte : Nat → Byte) (n j : Nat) (hj : j ≤ 8) (hn : serialRem byte (8 * n) = dataRem byte n) :
    crcShifts j (dataRem byte n ^^^ (byte n).setWidth 24 <<< 16) =
      serialRem byte (8 * n + j) ^^^ (byte n).setWidth 24 <<< (16 + j) := by
  induction j with
  | zero => rw [Nat.add_zero, hn, crcShifts]
  | succ j ih =>
    have hbit : ((byte n).setWidth 24 <<< (16 + j)).getLsbD 23 = (byte n).getLsbD (7 - j) := by
      rw [BitVec.getLsbD_shiftLeft, BitVec.getLsbD_setWidth]
      have h₁ : ¬23 < 16 + j := by omega
      have h₂ : 23 - (16 + j) = 7 - j := by omega
      have h₃ : 7 - j < 24 := by omega
      simp [h₁, h₂, h₃]
    have hindex : (8 * n + j) / 8 = n ∧ (8 * n + j) % 8 = j := by omega
    rw [crcShifts_succ, ih (by omega), crcShift_xor_eq_serialStep, hbit, ← BitVec.shiftLeft_add, ← Nat.add_assoc,
      ← Nat.add_assoc, serialRem, hindex.1, hindex.2]

/-- Eight serial bits are one table step. -/
theorem serialRem_eq_dataRem (byte : Nat → Byte) (n : Nat) : serialRem byte (8 * n) = dataRem byte n := by
  induction n with
  | zero => rfl
  | succ n ih =>
    have hout : (byte n).setWidth 24 <<< (16 + 8) = 0#24 := BitVec.shiftLeft_eq_zero (le_refl 24)
    rw [dataRem_succ, crcStep_eq_rounds, rounds_eq_serialRem byte n 8 (le_refl 8) ih, hout, BitVec.xor_zero, Nat.mul_succ]

theorem toNat_serialStep (rem : Rem) (b : Bool) :
    (serialStep rem b).toNat =
      if rem.toNat / 2 ^ 23 % 2 = b.toNat then 2 * rem.toNat % 2 ^ 24 else (2 * rem.toNat % 2 ^ 24) ^^^ 0xFFF409 := by
  have htop : rem.toNat / 2 ^ 23 % 2 = b.toNat ↔ rem.getLsbD 23 = b := by
    have hsame : ∀ x y : Bool, x.toNat = y.toNat ↔ x = y := by decide
    rw [← Nat.toNat_testBit]
    exact hsame _ _
  unfold serialStep
  simp only [htop]
  split
  · exact toNat_shiftLeft_one rem
  · rw [BitVec.toNat_xor, toNat_shiftLeft_one]
    rfl

/-- The loop of the bit-serial form over the first `p` stream bits. -/
theorem toNat_serialRem (byte : Nat → Byte) (p : Nat) :
    (serialRem byte p).toNat = (List.range p).foldl
      (fun rem p => if rem / 2 ^ 23 % 2 = frameBitOf byte p then 2 * rem % 2 ^ 24 else (2 * rem % 2 ^ 24) ^^^ 0xFFF409)
      0 := by
  induction p with
  | zero => rfl
  | succ p ih =>
    rw [serialRem, toNat_serialStep, List.range_succ, List.foldl_append, ← ih, List.foldl_cons, List.foldl_nil,
      frameBitOf_eq_toNat]

theorem toNat_frameRem_eq_serialCrc (byte : Nat → Byte) {len : Nat} (h : 3 ≤ len) :
    (frameRem byte len).toNat = serialCrc byte len := by
  rw [frameRem_eq byte h, BitVec.toNat_xor, ← serialRem_eq_dataRem, toNat_serialRem, toNat_lastThreeRem, serialCrc]

/-! A frame of one bit: the difference that flipping this bit makes (41_crc24.md R175, R177). -/

/-- The frame whose only set bit is stream bit `p`. -/
def oneBit (p i : Nat) : Byte := if i = p / 8 then BitVec.twoPow 8 (7 - p % 8) else 0

theorem flipBit_eq_xor_oneBit (byte : Nat → Byte) (p : Nat) : flipBit byte p = fun i => byte i ^^^ oneBit p i := by
  funext i
  unfold flipBit oneBit
  split
  · rfl
  · exact (BitVec.xor_zero).symm

theorem oneBit_of_ne {p i : Nat} (h : i ≠ p / 8) : oneBit p i = 0 := if_neg h

/-- The data remainder of one set bit never becomes 0 again. -/
theorem dataRem_oneBit_ne_zero {p n : Nat} (h : p / 8 < n) : dataRem (oneBit p) n ≠ 0 := by
  induction n, h using Nat.le_induction with
  | base =>
    intro hzero
    rw [dataRem_succ, dataRem_of_zeros fun i hi => oneBit_of_ne (by omega)] at hzero
    have hbyte := eq_of_crcStep_eq_zero hzero
    have hset : ∀ q : Fin 8, (0 : Rem) ≠ (BitVec.twoPow 8 (7 - q.val)).setWidth 24 <<< 16 := by decide
    rw [oneBit, if_pos rfl] at hbyte
    exact hset ⟨p % 8, Nat.mod_lt p (by decide)⟩ hbyte
  | succ n hn ih =>
    intro hzero
    rw [dataRem_succ, oneBit_of_ne (by omega)] at hzero
    exact ih ((eq_of_crcStep_eq_zero hzero).trans (by decide))

theorem oneBit_add (n q k : Nat) : oneBit (8 * n + q) (n + k) = oneBit q k := by
  have hbyte : (8 * n + q) / 8 = n + q / 8 := by omega
  have hbit : (8 * n + q) % 8 = q % 8 := by omega
  simp only [oneBit, hbyte, hbit, Nat.add_left_cancel_iff]

theorem lastThreeRem_oneBit (n q : Nat) (hq : q < 24) :
    lastThreeRem (oneBit (8 * n + q)) (n + 3) = BitVec.twoPow 24 (23 - q) := by
  have hplace : ∀ q : Fin 24, lastThreeRem (oneBit q.val) 3 = BitVec.twoPow 24 (23 - q.val) := by decide
  calc lastThreeRem (oneBit (8 * n + q)) (n + 3)
      = (oneBit (8 * n + q) (n + 0) ++ oneBit (8 * n + q) (n + 1)) ++ oneBit (8 * n + q) (n + 2) := rfl
    _ = lastThreeRem (oneBit q) 3 := by
        rw [oneBit_add, oneBit_add, oneBit_add]
        rfl
    _ = BitVec.twoPow 24 (23 - q) := hplace ⟨q, hq⟩

/-- A bit of the last three bytes stands in the remainder as it is: no data byte is set. -/
theorem frameRem_oneBit_of_last {p len : Nat} (h : 3 ≤ len) (hlast : 8 * (len - 3) ≤ p) (hp : p < 8 * len) :
    frameRem (oneBit p) len = BitVec.twoPow 24 (8 * len - 1 - p) := by
  obtain ⟨n, rfl⟩ := Nat.exists_eq_add_of_le' h
  obtain ⟨q, rfl⟩ := Nat.exists_eq_add_of_le hlast
  have hexp : 8 * (n + 3) - 1 - (8 * n + q) = 23 - q := by omega
  rw [frameRem_eq _ h, dataRem_of_zeros fun i hi => oneBit_of_ne (by omega), BitVec.zero_xor, Nat.add_sub_cancel,
    lastThreeRem_oneBit n q (by omega), hexp]

theorem frameRem_oneBit_ne_zero {p len : Nat} (h : 3 ≤ len) (hp : p < 8 * len) : frameRem (oneBit p) len ≠ 0 := by
  by_cases hlast : 8 * (len - 3) ≤ p
  · have hset : ∀ q : Fin 24, BitVec.twoPow 24 q.val ≠ 0 := by decide
    rw [frameRem_oneBit_of_last h hlast hp]
    exact hset ⟨8 * len - 1 - p, by omega⟩
  · have hlastThree : lastThreeRem (oneBit p) len = 0#24 :=
      lastThreeRem_of_zeros (oneBit_of_ne (by omega)) (oneBit_of_ne (by omega)) (oneBit_of_ne (by omega))
    rw [frameRem_eq _ h, hlastThree, BitVec.xor_zero]
    exact dataRem_oneBit_ne_zero (by omega)

/-! What CRC_COMPUTE answers (41_crc24.md R172 to R174, R179). -/

theorem fetchFrame_read {s : State} (hlen : s.flen.toNat ≤ s.frameMax) (h3 : 3 ≤ s.flen.toNat) :
    fetchFrame s = Operand.ofRead (frameBytes s.fb 0 s.flen.toNat) :=
  (if_neg (by omega)).trans (if_neg (by omega))

/-- The state in which CRC_COMPUTE over the frame `byte` leaves the block. -/
abbrev computed (byte : Nat → Byte) (s : State) : State := (s.setRemainder (frameRem byte s.flen.toNat)).succeed

theorem exec_crcCompute_of_ready {s : State} {byte : Nat → Byte} (h : FrameReady s byte) :
    exec .crcCompute s = .next (computed byte s) := by
  have hbytes := frameBytes_ok s.fb byte 0 s.flen.toNat fun k hk => by simpa using h.written k hk
  simp only [exec, execCrcCompute, fetchFrame_read h.length h.three, hbytes, Operand.ofRead, withOperand,
    ← List.range_eq_range']
  rfl

theorem exec_crcCompute_of_unwritten {s : State} {k : Nat} (h : fetchFrame s = .unwritten k) :
    exec .crcCompute s = .fault (.unwrittenByte k) := by
  simp only [exec, execCrcCompute, h, withOperand]

theorem isSome_read_of_frameBytes_ok (m : Memory) (start n : Nat) (bs : List Byte) (h : frameBytes m start n = .ok bs)
    (k : Nat) (hk : k < n) : (m.read (start + k)).isSome = true := by
  induction n generalizing start bs k with
  | zero => omega
  | succ n ih =>
    simp only [frameBytes] at h
    split at h
    · cases h
    · rename_i b hb
      split at h
      · cases h
      · rename_i rest hrest
        cases k with
        | zero => rw [Nat.add_zero, (frameByte_ok_iff m start b).1 hb]; rfl
        | succ k =>
          have := ih (start + 1) rest hrest k (by omega)
          rwa [Nat.add_right_comm, Nat.add_assoc] at this

/-- A frame with an unwritten byte reads as the index of one. -/
theorem frameBytes_error_of_unwritten (m : Memory) (n : Nat) (h : ∃ k, k < n ∧ m.read k = none) :
    ∃ k, k < n ∧ m.read k = none ∧ frameBytes m 0 n = .error k := by
  cases hbytes : frameBytes m 0 n with
  | ok bs =>
    obtain ⟨k, hk, hnone⟩ := h
    have hsome := isSome_read_of_frameBytes_ok m 0 n bs hbytes k hk
    rw [Nat.zero_add, hnone] at hsome
    cases hsome
  | error i =>
    obtain ⟨hnone, -, hi⟩ := frameBytes_error m 0 n i hbytes
    exact ⟨i, by omega, hnone, rfl⟩

/-- A word with the OPCODE of a command without a width is illegal when anything stands above the OPCODE
(30_encoding.md R95). -/
theorem rejectsIllegalWords_of_noWidth {op : Nat} (hop : op ∈ [0x08, 0x10, 0x20]) : RejectsIllegalWords op false := by
  intro w s hw hfields
  refine runCommand_of_illegalWord w s ?_
  by_cases hrsvd : w.toNat / 2 ^ 14 = 0
  · exact .inr (.inr ⟨hw ▸ hop, by omega⟩)
  · exact .inl hrsvd

end Sys2Proof.Machine

namespace Sys2Proof.Claims

open Sys2Proof.Machine

/-- Settles O17: the checks pass, so the fetch is the read of the frame, which meets an unwritten byte. -/
theorem unwrittenCrcByteFaults : Obligations.UnwrittenCrcByteFaults := by
  intro s hlen h3 hunwritten
  obtain ⟨k, hk, hnone, hbytes⟩ := frameBytes_error_of_unwritten _ _ hunwritten
  refine ⟨k, hk, hnone, exec_crcCompute_of_unwritten ?_⟩
  rw [fetchFrame_read hlen h3, hbytes]
  rfl

/-- Settles O18: a step of the table loop is the pseudocode's on numbers, and each check of the fetch is an error. -/
theorem crcFollowsThePseudocode : Obligations.CrcFollowsThePseudocode := by
  refine ⟨decode_encode .crcCompute, rejectsIllegalWords_of_noWidth (by decide), fun s byte h => ?ready,
    fun s hlen => ?badLength, fun s hlen h3 => ?tooShort⟩
  case ready =>
    refine ⟨_, exec_crcCompute_of_ready h, toNat_frameRem_eq_tableCrc byte h.three, ?_⟩
    have hcrcz : decide (frameRem byte s.flen.toNat = 0) = decide ((frameRem byte s.flen.toNat).toNat = 0) :=
      decide_eq_decide.2 BitVec.toNat_eq
    simp only [computed, State.succeed, State.setRemainder, Status.succeeded, Status.withCrcz, hcrcz]
  case badLength => exact exec_crcCompute_of_raises ((fetchFrame_eq_raises_iff s _).2 (.inl ⟨rfl, hlen⟩))
  case tooShort => exact exec_crcCompute_of_raises ((fetchFrame_eq_raises_iff s _).2 (.inr ⟨rfl, hlen, h3⟩))

/-- Settles O19: the eight rounds of a table step are eight serial bits. -/
theorem crcIsBitSerial : Obligations.CrcIsBitSerial := fun _ byte h =>
  ⟨_, exec_crcCompute_of_ready h, toNat_frameRem_eq_serialCrc byte h.three⟩

/-- Settles O20: every table step is linear, and so are the last three bytes. -/
theorem crcIsLinear : Obligations.CrcIsLinear := by
  intro s₁ s₂ s₃ byte₁ byte₂ h₁ h₂ h₃ hlen₂ hlen₃
  refine ⟨_, _, _, exec_crcCompute_of_ready h₁, exec_crcCompute_of_ready h₂, exec_crcCompute_of_ready h₃, ?_⟩
  simp only [State.succeed_crcRem, State.setRemainder_crcRem, hlen₂, hlen₃]
  exact frameRem_xor byte₁ byte₂ h₁.three

/-- Settles O21: a flip XORs the remainder of the frame of that one bit, which is not 0. -/
theorem crcDetectsEveryBitFlip : Obligations.CrcDetectsEveryBitFlip := by
  intro s s' byte p h h' hlen hp
  refine ⟨_, _, exec_crcCompute_of_ready h, exec_crcCompute_of_ready h', ?_⟩
  simp only [State.succeed_crcRem, State.setRemainder_crcRem, hlen]
  rw [flipBit_eq_xor_oneBit, frameRem_xor _ _ h.three]
  refine ⟨fun heq => frameRem_oneBit_ne_zero h.three hp ?_, fun hlast => ?_⟩
  · exact (BitVec.xor_right_inj _).1 (heq.trans BitVec.xor_zero.symm)
  · rw [frameRem_oneBit_of_last h.three hlast hp]

/-- Settles O22: no data byte, one data byte from the remainder 0, and a frame of zeros. -/
theorem crcCornerCases : Obligations.CrcCornerCases := by
  refine ⟨fun s byte h hlen => ?three, fun s byte h hlen h₁ h₂ h₃ => ?four, fun s byte h hzero => ?zeros⟩
  case three =>
    refine ⟨_, exec_crcCompute_of_ready h, ?_⟩
    rw [State.succeed_crcRem, State.setRemainder_crcRem, frameRem_eq byte h.three, hlen, Nat.sub_self, dataRem_zero,
      BitVec.zero_xor, toNat_lastThreeRem, lastThree]
  case four =>
    have hdata : dataRem byte 1 = crcTable (byte 0) := by
      rw [dataRem_succ, dataRem_zero, crcStep_eq_rounds, BitVec.zero_xor, crcTable]
    refine ⟨_, exec_crcCompute_of_ready h, ?_⟩
    rw [State.succeed_crcRem, State.setRemainder_crcRem, frameRem_eq byte h.three, hlen,
      lastThreeRem_of_zeros h₁ h₂ h₃, hdata, BitVec.xor_zero, toNat_crcTable]
  case zeros =>
    have h3 := h.three
    have hrem : frameRem byte s.flen.toNat = 0#24 := by
      rw [frameRem_eq byte h3, dataRem_of_zeros fun i hi => hzero i (by omega), lastThreeRem_of_zeros
        (hzero _ (by omega)) (hzero _ (by omega)) (hzero _ (by omega)), BitVec.xor_zero]
    exact ⟨_, exec_crcCompute_of_ready h, hrem, decide_eq_true hrem⟩

/-- Settles O23: four table steps, and the last three bytes. -/
theorem sourceFrameRecoversItsAddress : Obligations.SourceFrameRecoversItsAddress := by
  intro s byte h hlen h₀ h₁ h₂ h₃ h₄ h₅ h₆
  have hrem : frameRem byte s.flen.toNat = 0xA40442 := by
    rw [frameRem_eq byte h.three, hlen]
    simp only [dataRem_succ, dataRem_zero, lastThreeRem, h₀, h₁, h₂, h₃, h₄, h₅, h₆]
    decide
  refine ⟨_, exec_crcCompute_of_ready h, hrem, decide_eq_false ?_⟩
  rw [hrem]
  decide

end Sys2Proof.Claims

/-! PROOFS for 42_cpr.md: the resolver's integers against the source's formulas over fractions and degrees, NL as the
latitude moves away from the equator, and what CPR_RESOLVE answers over each pair of slots. -/

namespace Sys2Proof.Machine

open Sys2Proof.Claims

/-! Degrees: a number of 2^-17 zones, of a circle that has `z` zones (42_cpr.md R215). -/

/-- The angle of `n` units of 2^-17 zone on a circle of `z` zones: 360 N / (Z 131072) (42_cpr.md R215). -/
def degrees (n : ℤ) (z : Nat) : ℚ := 360 * n / (z * 131072)

/-- Whole zones and a fraction of a zone are that many units, whatever the circle (42_cpr.md R205, R206, R213). -/
theorem degrees_zones_add_raw (k : ℤ) (raw z : Nat) : 360 / (z : ℚ) * (k + frac raw) = degrees (k * 131072 + raw) z := by
  simp only [degrees, frac]
  push_cast
  ring

theorem abs_degrees (n : ℤ) (z : Nat) : |degrees n z| = degrees n.natAbs z := by
  simp [degrees, abs_div, abs_mul]

section
variable {z : Nat} (hz : 0 < z)
include hz

theorem le_degrees_iff (x : ℚ) (n : ℤ) : x ≤ degrees n z ↔ x * (z * 131072) ≤ 360 * n :=
  le_div_iff₀ (by positivity)

theorem degrees_le_iff (x : ℚ) (n : ℤ) : degrees n z ≤ x ↔ 360 * n ≤ x * (z * 131072) :=
  div_le_iff₀ (by positivity)

theorem degrees_lt_iff (x : ℚ) (n : ℤ) : degrees n z < x ↔ 360 * n < x * (z * 131072) :=
  div_lt_iff₀ (by positivity)

/-- A whole turn is `z` zones. -/
theorem degrees_sub_turn (n : ℤ) : degrees (n - z * 131072) z = degrees n z - 360 := by
  have hz' : (z : ℚ) ≠ 0 := by positivity
  simp only [degrees]
  push_cast
  field_simp

/-- The latitude wraparound on units is the one on degrees (42_cpr.md R207). -/
theorem degrees_wrapLat (n : ℤ) : degrees (wrapLat z n) z = below270 (degrees n z) := by
  have hiff : 270 ≤ degrees n z ↔ 3 * (z : ℤ) * 131072 ≤ 4 * n := by
    rw [le_degrees_iff hz]
    qify
    constructor <;> intro h <;> linarith
  simp only [below270, wrapLat, hiff, apply_ite (degrees · z), degrees_sub_turn hz]

/-- The longitude wraparound on units is the one on degrees (42_cpr.md R213). -/
theorem degrees_wrapLon (n : ℤ) : degrees (wrapLon z n) z = below180 (degrees n z) := by
  have hiff : 180 ≤ degrees n z ↔ (z : ℤ) * 131072 ≤ 2 * n := by
    rw [le_degrees_iff hz]
    qify
    constructor <;> intro h <;> linarith
  simp only [below180, wrapLon, hiff, apply_ite (degrees · z), degrees_sub_turn hz]

/-- Both comparisons of NL, multiplied out, are those on degrees (42_cpr.md R209). -/
theorem nlZones_eq_sourceNl (table : List (Nat × Nat)) (a : Nat) :
    nlZones table a z = sourceNl table (degrees a z) := by
  induction table with
  | nil =>
    have hiff : degrees a z ≤ 87 ↔ 360 * a ≤ 87 * (z * 131072) := by
      rw [degrees_le_iff hz]
      exact_mod_cast Iff.rfl
    simp only [nlZones, sourceNl, hiff]
  | cons c rest ih =>
    obtain ⟨n, t⟩ := c
    have hiff : degrees a z < t / 10 ^ 8 ↔ 360 * a * 100000000 < t * (z * 131072) := by
      rw [degrees_lt_iff hz, div_mul_eq_mul_div, lt_div_iff₀ (by positivity)]
      exact_mod_cast Iff.rfl
    simp only [nlZones, sourceNl, hiff, ih]

end

theorem degrees_le_degrees {n₁ n₂ z₁ z₂ : Nat} (hz₁ : 0 < z₁) (hz₂ : 0 < z₂) (h : n₁ * z₂ ≤ n₂ * z₁) :
    degrees n₁ z₁ ≤ degrees n₂ z₂ := by
  have hq : (n₁ : ℚ) * z₂ ≤ n₂ * z₁ := by exact_mod_cast h
  simp only [degrees, Int.cast_natCast]
  rw [div_le_div_iff₀ (by positivity) (by positivity)]
  linarith

/-! NL over a table whose zone counts fall row by row (42_cpr.md R209, R214). -/

theorem sourceNl_le {table : List (Nat × Nat)} {k : Nat} (hk : 2 ≤ k) (h : ∀ c ∈ table, c.1 ≤ k) (a : ℚ) :
    sourceNl table a ≤ k := by
  induction table with
  | nil => simp only [sourceNl]; split <;> omega
  | cons c rest ih =>
    obtain ⟨hc, hrest⟩ := List.forall_mem_cons.1 h
    simp only [sourceNl]
    split
    · exact hc
    · exact ih hrest

/-- A row that the lower latitude meets has at least the zone count of every later row; one that it does not meet, the
higher latitude does not meet either. -/
theorem sourceNl_antitone {table : List (Nat × Nat)} (hfall : table.Pairwise fun c d => d.1 ≤ c.1)
    (htwo : ∀ c ∈ table, 2 ≤ c.1) : Antitone (sourceNl table) := by
  intro a b hab
  induction table with
  | nil =>
    simp only [sourceNl]
    split_ifs with hb ha
    · exact le_rfl
    · exact absurd (hab.trans hb) ha
    · decide
    · exact le_rfl
  | cons c rest ih =>
    obtain ⟨hle, hfall⟩ := List.pairwise_cons.1 hfall
    obtain ⟨hc, htwo⟩ := List.forall_mem_cons.1 htwo
    simp only [sourceNl]
    split_ifs with hb ha
    · exact le_rfl
    · exact absurd (hab.trans_lt hb) ha
    · exact sourceNl_le hc hle b
    · exact ih hfall htwo

theorem nlTable_falls : nlTable.Pairwise fun c d => d.1 ≤ c.1 := by decide

theorem two_le_of_mem_nlTable : ∀ c ∈ nlTable, 2 ≤ c.1 := by decide

/-! J, M and the zone count by the source's formulas (42_cpr.md R204, R211, R212). -/

theorem floor_units (x : ℤ) : ⌊(x : ℚ) / 131072⌋ = x / 131072 := by
  exact_mod_cast Rat.floor_intCast_div_natCast x 131072

theorem sourceJ_eq_latIndex (e o : CprFrame) : sourceJ e o = latIndex e.lat o.lat := by
  rw [latIndex, ← floor_units, sourceJ, frac, frac]
  congr 1
  push_cast
  ring

theorem sourceM_eq_lonIndex (e o : CprFrame) (nl : Nat) : sourceM e o nl = lonIndex e.lon o.lon nl := by
  rw [lonIndex, ← floor_units, sourceM, frac, frac]
  congr 1
  push_cast
  ring

theorem sourceZones_eq_zoneCount (latest : CprFrame) (nl : Nat) : sourceZones latest nl = zoneCount latest.parity nl := by
  unfold sourceZones zoneCount
  cases latest.parity <;> simp only <;> omega

/-! The even and the odd frame of a pair of opposite parities (42_cpr.md R202). -/

section
variable {a b : CprFrame} (h : a.parity ≠ b.parity)
include h

theorem evenFrame_swap : evenFrame b a = evenFrame a b := by
  unfold evenFrame
  cases ha : a.parity <;> cases hb : b.parity <;> simp_all

theorem oddFrame_swap : oddFrame b a = oddFrame a b := by
  unfold oddFrame
  cases ha : a.parity <;> cases hb : b.parity <;> simp_all

theorem resolve_even_odd : resolve a b = some (resolvePair (evenFrame a b) (oddFrame a b) b) := by
  rw [resolve_opposite a b h, evenFrame, oddFrame]
  split <;> rfl


/-- The latest frame is the pair's even frame or its odd frame, as its parity says. -/
theorem evenFrame_of_even (hb : b.parity = .even) : evenFrame a b = b := if_neg fun ha => h (ha.trans hb.symm)

theorem oddFrame_of_odd (hb : b.parity = .odd) : oddFrame a b = b := by
  refine if_pos ?_
  cases ha : a.parity
  · rfl
  · exact absurd (ha.trans hb.symm) h

end

/-! The numbers of a resolved position by the source's formulas (42_cpr.md R204 to R213). -/

section
variable (e o latest : CprFrame)

theorem resolvePair_j : (resolvePair e o latest).j = sourceJ e o := (sourceJ_eq_latIndex e o).symm

theorem resolvePair_latZones : (resolvePair e o latest).latZones = if latest.parity = .even then 60 else 59 := by
  change latZonesOf latest.parity = _
  cases latest.parity <;> rfl

theorem resolvePair_latZones_pos : 0 < (resolvePair e o latest).latZones := by
  rw [resolvePair_latZones]
  split <;> decide

theorem resolvePair_latNum : (resolvePair e o latest).latNum = wrapLat (resolvePair e o latest).latZones
    (latCandidate (resolvePair e o latest).latZones (resolvePair e o latest).j latest.lat) := rfl

/-- The latitude in degrees: the candidate of the latest frame, which is the even or the odd one. -/
theorem degrees_resolvePair_lat (he : latest.parity = .even → e = latest) (ho : latest.parity = .odd → o = latest) :
    degrees (resolvePair e o latest).latNum (resolvePair e o latest).latZones = sourceLat e o latest := by
  rw [resolvePair_latNum, degrees_wrapLat (resolvePair_latZones_pos e o latest), latCandidate,
    ← degrees_zones_add_raw, resolvePair_j, resolvePair_latZones, sourceLat]
  cases hp : latest.parity
  · rw [he hp]
    rfl
  · rw [ho hp]
    rfl

theorem resolvePair_nl : (resolvePair e o latest).nl =
    sourceNl nlTable |degrees (resolvePair e o latest).latNum (resolvePair e o latest).latZones| := by
  rw [abs_degrees]
  exact nlZones_eq_sourceNl (resolvePair_latZones_pos e o latest) nlTable _

theorem resolvePair_m : (resolvePair e o latest).m = sourceM e o (resolvePair e o latest).nl :=
  (sourceM_eq_lonIndex e o _).symm

theorem resolvePair_lonZones :
    ((resolvePair e o latest).lonZones : ℤ) = sourceZones latest (resolvePair e o latest).nl :=
  (sourceZones_eq_zoneCount latest _).symm

theorem resolvePair_lonZones_pos : 0 < (resolvePair e o latest).lonZones := by
  have hmax := resolvePair_lonZones e o latest
  unfold sourceZones at hmax
  split at hmax <;> omega

theorem resolvePair_lonNum : (resolvePair e o latest).lonNum = wrapLon (resolvePair e o latest).lonZones
    (lonCandidate (resolvePair e o latest).lonZones (resolvePair e o latest).m latest.lon) := rfl

theorem degrees_resolvePair_lon : degrees (resolvePair e o latest).lonNum (resolvePair e o latest).lonZones =
    sourceLon e o latest (resolvePair e o latest).nl := by
  rw [resolvePair_lonNum, degrees_wrapLon (resolvePair_lonZones_pos e o latest), lonCandidate,
    ← degrees_zones_add_raw, sourceLon, ← resolvePair_lonZones, ← resolvePair_m, Int.cast_natCast]

end

/-! What CPR_RESOLVE answers, and the numbers its registers hold (42_cpr.md R200, R201, R215). -/

/-- The position as the output registers hold it. -/
def CprOutputs.position (out : CprOutputs) : Position where
  j := out.j.toInt
  latNum := out.latNum.toInt
  latZones := out.latZones.toNat
  nl := out.nl.toNat
  m := out.m.toInt
  lonNum := out.lonNum.toInt
  lonZones := out.lonZones.toNat

/-- A legal position fits its registers. -/
theorem Position.Legal.position_outputs {p : Position} (h : p.Legal) : p.outputs.position = p := by
  obtain ⟨hz, ⟨hlat₁, hlat₂⟩, ⟨hlz₁, hlz₂⟩, ⟨hlon₁, hlon₂⟩, ⟨hj₁, hj₂⟩, ⟨hm₁, hm₂⟩, hnl₁, hnl₂⟩ := h
  refine Position.mk.injEq .. ▸ ⟨?j, ?latNum, ?latZones, ?nl, ?m, ?lonNum, ?lonZones⟩
  case j | latNum | m | lonNum => exact toInt_ofInt_word _ (by omega) (by omega)
  case latZones | nl | lonZones => exact Nat.mod_eq_of_lt (by omega)

/-- The position of the pair of slots, where their parities differ. -/
def slotsPosition (s : State) : Position :=
  resolvePair (evenFrame (slotA s) (slotB s)) (oddFrame (slotA s) (slotB s)) (slotB s)

theorem exec_cprResolve (s : State) : exec .cprResolve s =
    .next (s.setPosition ((resolve (slotA s) (slotB s)).map Position.outputs)).succeed := rfl

theorem exec_cprResolve_of_equal {s : State} (h : s.cprPar.getLsbD 0 = s.cprPar.getLsbD 1) :
    exec .cprResolve s = .next (s.setPosition none).succeed := by
  rw [exec_cprResolve, resolve_equal _ _ (congrArg Parity.ofBit h)]
  rfl

section
variable {s : State} (h : s.cprPar.getLsbD 0 ≠ s.cprPar.getLsbD 1)
include h

theorem slots_parity_ne : (slotA s).parity ≠ (slotB s).parity := Parity.ofBit_injective.ne h

theorem resolve_slots : resolve (slotA s) (slotB s) = some (slotsPosition s) := resolve_even_odd (slots_parity_ne h)

theorem exec_cprResolve_of_opposite :
    exec .cprResolve s = .next (s.setPosition (some (slotsPosition s).outputs)).succeed := by
  rw [exec_cprResolve, resolve_slots h]
  rfl

theorem position_outputs_slotsPosition : (slotsPosition s).outputs.position = slotsPosition s :=
  (resolve_legal _ _ (slotA_fits s) (slotB_fits s) _ (resolve_slots h)).position_outputs

theorem degrees_slotsPosition_lat : degrees (slotsPosition s).latNum (slotsPosition s).latZones =
    sourceLat (evenFrame (slotA s) (slotB s)) (oddFrame (slotA s) (slotB s)) (slotB s) :=
  degrees_resolvePair_lat _ _ _ (evenFrame_of_even (slots_parity_ne h)) (oddFrame_of_odd (slots_parity_ne h))

end

end Sys2Proof.Machine

namespace Sys2Proof.Claims

open Sys2Proof.Machine

/-- Settles O25: the registers hold the resolver's integers, and each of these is the source's formula. -/
theorem resolverIsTheSourceFormulas : Obligations.ResolverIsTheSourceFormulas := by
  intro s hpar e o latest lat nl
  have hread := position_outputs_slotsPosition hpar
  have hnl : (slotsPosition s).nl = nl := by
    rw [slotsPosition, resolvePair_nl, ← slotsPosition, degrees_slotsPosition_lat hpar]
  refine ⟨_, (slotsPosition s).outputs, exec_cprResolve_of_opposite hpar, rfl, ?j, ?latZones, ?lat, ?nl, ?m, ?lonZones,
    ?lon⟩
  case j => exact (congrArg Position.j hread).trans (resolvePair_j e o latest)
  case latZones => exact (congrArg Position.latZones hread).trans (resolvePair_latZones e o latest)
  case lat => exact (congrArg (fun p => degrees p.latNum p.latZones) hread).trans (degrees_slotsPosition_lat hpar)
  case nl => exact (congrArg Position.nl hread).trans hnl
  case m => exact (congrArg Position.m hread).trans (hnl ▸ resolvePair_m e o latest)
  case lonZones =>
    exact (congrArg (fun p => (p.lonZones : ℤ)) hread).trans (hnl ▸ resolvePair_lonZones e o latest)
  case lon =>
    exact (congrArg (fun p => degrees p.lonNum p.lonZones) hread).trans (hnl ▸ degrees_resolvePair_lon e o latest)

/-- Settles O27: NL of the two integers is NL of the two angles, over a table whose zone counts fall. -/
theorem zoneCountNeverGrows : Obligations.ZoneCountNeverGrows := by
  intro n₁ z₁ n₂ z₂ hz₁ hz₂ hle
  rw [nlZones_eq_sourceNl hz₁, nlZones_eq_sourceNl hz₂]
  exact sourceNl_antitone nlTable_falls two_le_of_mem_nlTable (degrees_le_degrees hz₁ hz₂ hle)

/-- Settles O28: both orders of the slots have the same even frame and the same odd frame. -/
theorem swappedSlotsKeepIndices : Obligations.SwappedSlotsKeepIndices := by
  intro s s' hpar hALat hALon hBLat hBLon hA hB
  have hpar' : s'.cprPar.getLsbD 0 ≠ s'.cprPar.getLsbD 1 := by
    rw [hA, hB]
    exact hpar.symm
  have hslotA : slotA s' = slotB s := by rw [slotA, slotB, hALat, hALon, hA]
  have hslotB : slotB s' = slotA s := by rw [slotA, slotB, hBLat, hBLon, hB]
  have hswapped : slotsPosition s' =
      resolvePair (evenFrame (slotA s) (slotB s)) (oddFrame (slotA s) (slotB s)) (slotA s) := by
    rw [slotsPosition, hslotA, hslotB, evenFrame_swap (slots_parity_ne hpar), oddFrame_swap (slots_parity_ne hpar)]
  refine ⟨_, _, _, _, exec_cprResolve_of_opposite hpar, exec_cprResolve_of_opposite hpar', rfl, rfl, ?j, fun hnl => ?m⟩
  case j =>
    have hj : (slotsPosition s').j = (slotsPosition s).j := by
      rw [hswapped, resolvePair_j, slotsPosition, resolvePair_j]
    exact congrArg (BitVec.ofInt 32) hj
  case m =>
    have hsame : (slotsPosition s').nl = (slotsPosition s).nl := by
      rw [← position_outputs_slotsPosition hpar', ← position_outputs_slotsPosition hpar]
      exact congrArg BitVec.toNat hnl
    have hm : (slotsPosition s').m = (slotsPosition s).m := by
      rw [hswapped] at hsame ⊢
      rw [resolvePair_m, hsame, slotsPosition, resolvePair_m]
    exact congrArg (BitVec.ofInt 32) hm

/-- Settles O24: the word is CPR_RESOLVE's encoding, an illegal word of this OPCODE has RSVD or WIDTH nonzero, and
equal parities resolve to nothing. -/
theorem equalParitiesGiveNoPosition : Obligations.EqualParitiesGiveNoPosition :=
  ⟨decode_encode .cprResolve, rejectsIllegalWords_of_noWidth (by decide), fun _ => exec_cprResolve_of_equal⟩

end Sys2Proof.Claims

/-! PROOFS for 60_exceptions.md: what a command that raises leaves unchanged, and the only way a step stops. -/

namespace Sys2Proof.Machine

open Sys2Proof.Claims

/-! A raise is precise (60_exceptions.md R241). -/

/-- A command that ends with an error has taken `exec_next`'s first case; the others write ERR ← E_NONE. -/
theorem exec_eq_failed_of_err (i : Instr) (s t : State) (h : exec i s = .next t) (ht : t.status.err ≠ .none) :
    t = failed t.status.err s := by
  rcases exec_next i s t h with
    ⟨c, -, rfl⟩ | ⟨n, v, -, -, rfl⟩ | ⟨n, v, -, -, rfl⟩ | ⟨-, rfl⟩ | ⟨-, bytes, -, rfl⟩ | ⟨-, rfl⟩
  case inl => rfl
  all_goals exact absurd rfl ht

theorem runCommand_eq_failed_of_err (w : Word) (s t : State) (h : runCommand w s = .next t)
    (ht : t.status.err ≠ .none) : t = failed t.status.err s := by
  rcases runCommand_next w s t h with ⟨e, -, rfl⟩ | ⟨i, -, hi⟩
  · rfl
  · exact exec_eq_failed_of_err i s t hi ht

theorem fail_inputsKept (c : ErrorCode) (s : State) : InputsKept s (s.fail c) :=
  ⟨fun _ => rfl, rfl, rfl, rfl, rfl, rfl, rfl, rfl, rfl, rfl, rfl, rfl, rfl⟩

theorem runCommand_inputsKept (w : Word) (s t : State) (h : runCommand w s = .next t) : InputsKept s t := by
  rcases runCommand_next w s t h with ⟨e, -, rfl⟩ | ⟨i, -, hi⟩
  · exact fail_inputsKept _ s
  · exact exec_inputsKept i s t hi

/-! Only a decoded command can stop a step (60_exceptions.md R259). -/

theorem runCommand_answers_or_exec (w : Word) (s : State) :
    Answers (runCommand w s) ∨ ∃ i, runCommand w s = exec i s := by
  cases hd : decode w with
  | error e => exact .inl ⟨_, runCommand_of_illegalWord w s ((decode_error_iff w).1 ⟨e, hd⟩)⟩
  | ok i => exact .inr ⟨i, runCommand_of_decode_ok w i s hd⟩

theorem hostWrite_answers_or_exec (a : Nat) (w : Word) (s : State) :
    Answers (hostWrite a w s) ∨ ∃ i, hostWrite a w s = exec i s := by
  rcases hostWrite_cases a w s with ⟨-, hw⟩ | ⟨-, hw⟩
  · exact hw ▸ runCommand_answers_or_exec w s
  · exact .inl ⟨_, hw⟩

/-- Every step answers a next state or is the command of its event. -/
theorem step_answers_or_exec (s : State) : Answers (step s) ∨ ∃ i rest, step s = exec i (s.setEvents rest) := by
  cases he : s.events with
  | nil => exact .inl ⟨s, step_of_events_nil s he⟩
  | cons e rest =>
    rw [step_of_events_cons s e rest he]
    cases e with
    | reset => exact .inl ⟨_, rfl⟩
    | read a => exact .inl ⟨_, rfl⟩
    | write a w => exact (hostWrite_answers_or_exec a w (s.setEvents rest)).imp_right fun ⟨i, hi⟩ => ⟨i, rest, hi⟩

/-- A step stops only on an unwritten byte of a frame that FB can hold. -/
theorem step_fault (s : State) (f : Fault) (h : step s = .fault f) :
    ∃ k, f = .unwrittenByte k ∧ k < s.flen.toNat ∧ s.flen.toNat ≤ s.frameMax ∧ s.fb.read k = none := by
  rcases step_answers_or_exec s with ⟨t, ht⟩ | ⟨i, rest, hi⟩
  · cases ht.symm.trans h
  · obtain ⟨k, hf, hnone, hk, hlen⟩ := exec_fault i _ f (hi.symm.trans h)
    exact ⟨k, hf, hk, hlen, hnone⟩

theorem step_ne_refused (s : State) (r : Refusal) : step s ≠ .refused r := by
  intro h
  rcases step_answers_or_exec s with ⟨t, ht⟩ | ⟨i, rest, hi⟩
  · cases ht.symm.trans h
  · exact exec_ne_refused i _ r (hi.symm.trans h)

theorem step_answers_of_frameWritten (s : State) (hw : FrameWritten s) : Answers (step s) := by
  cases h : step s with
  | next t => exact ⟨t, rfl⟩
  | fault f =>
    obtain ⟨k, -, hk, -, hnone⟩ := step_fault s f h
    have hsome := hw k hk
    rw [hnone] at hsome
    cases hsome
  | refused r => exact absurd h (step_ne_refused s r)

end Sys2Proof.Machine

namespace Sys2Proof.Claims

open Sys2Proof.Machine

/-- Settles O36: an illegal word and a command that raises leave the block in `State.fail`, every success clears ERR, and
no case of a command writes an input. -/
theorem failureChangesOnlyStatus : Obligations.FailureChangesOnlyStatus := fun w s t h =>
  ⟨runCommand_eq_failed_of_err w s t h, runCommand_inputsKept w s t h⟩

/-- Settles O45: a step that answers no next state is a command, and a command stops only where it reads an unwritten
byte below FLEN. -/
theorem blockNeverSticks : Obligations.BlockNeverSticks := fun s =>
  ⟨step_answers_of_frameWritten s, step_fault s, step_ne_refused s⟩

end Sys2Proof.Claims

/-! PROOFS for 70_reset_and_hazards.md: what a reset sets, and the invariant where every run begins. -/

namespace Sys2Proof.Machine

open Sys2Proof.Claims

/-- A reset event sets the registers of 70_reset_and_hazards.md R270 in every state. -/
theorem registersAtReset_resetBlock (s : State) : RegistersAtReset (resetBlock s) where
  fb := fun _ => rfl
  flen := rfl
  cursor := rfl
  arg0 := rfl
  arg1 := rfl
  result := rfl
  crcRem := rfl
  err := rfl
  anyErr := rfl
  crcz := rfl
  cprValid := rfl
  cprALat := rfl
  cprALon := rfl
  cprBLat := rfl
  cprBLon := rfl
  cprPar := rfl
  cprOut := rfl

/-- Power-up is a reset of the block of default size: a reset event leaves the power-up state as it is. -/
theorem resetBlock_reset : resetBlock State.reset = State.reset := rfl

theorem step_of_reset (s : State) (rest : List Event) (h : s.events = .reset :: rest) :
    step s = .next (resetBlock (s.setEvents rest)) :=
  step_of_events_cons s .reset rest h

theorem toNat_readReg_caps (draw : Word) (s : State) (h : Config.LegalFrameMax s.frameMax) :
    (readReg draw s .caps).toNat = s.frameMax + 256 :=
  toNat_capsWord s.frameMax h

end Sys2Proof.Machine

namespace Sys2Proof.Claims

open Sys2Proof.Machine

/-- Settles O35: power-up and a reset event set the same registers, the table is its construction on numbers, and CAPS
reads the FRAME_MAX that a reset keeps. -/
theorem resetGivesTheResetState : Obligations.ResetGivesTheResetState := by
  refine ⟨resetBlock_reset ▸ registersAtReset_resetBlock State.reset, toNat_crcTable, fun s rest hmax he => ?_⟩
  exact ⟨_, step_of_reset s rest he, registersAtReset_resetBlock _, fun d => toNat_readReg_caps d _ hmax, rfl⟩

/-- Settles O43: FRAME_MAX has its legal default, FB is empty, CURSOR is 0, no STATUS bit is set and the CPR outputs are
absent. -/
theorem invariantAtReset : Obligations.InvariantAtReset where
  frameMax := show Config.LegalFrameMax 32 by decide
  fbWf := reset_fb_wf
  fbRange := fun _ hc => absurd hc List.not_mem_nil
  cursor := Nat.zero_le _
  anyErr := fun hne => absurd rfl hne
  crcz := fun _ => rfl
  cprValid := rfl
  outputs := fun _ ho => nomatch ho

end Sys2Proof.Claims
